-- ==== Sys2Proof/Word.lean ====
section
/-! DEFINITION. The words of the block: a byte (R7 `BYTE_W`, `OUT_W`), a command word (R51), the status word (R24). -/

namespace Sys2Proof

/-- One element of either byte stream: 8 bits, unsigned, bit 7 the most significant (R7, R8). -/
abbrev Byte := BitVec 8

/-- One command word, the beat of the input channel: 10 bits (R51). -/
abbrev CmdWord := BitVec 10

/-- The status word: 8 bits (R24). -/
abbrev StatusWord := BitVec 8

end Sys2Proof
end

