-- ==== Sys2Proof/Config.lean ====
section
/-! DEFINITION. What the spec leaves open, as free values: constants with no body, of which nothing can be proved. The
parameters of R7 are all fixed, so nothing else is configurable. -/

namespace Sys2Proof.Config

/-- `HOLD` after the reset edge at a given clock tick: unspecified, and two resets need not agree (R28, U1). Entry 2. -/
opaque resetHold : Nat → Byte

/-- `WRAP` after the reset edge at a given clock tick: unspecified (R28, U1). Entry 2. -/
opaque resetWrap : Nat → Bool

/-- `CARRY` after the reset edge at a given clock tick: unspecified (R28, U1). Entry 2. -/
opaque resetCarry : Nat → Bool

/-- `out_data` in a cycle where `out_valid = 0`, at a given clock tick and with a given word on `in_cmd`: any value, and
nothing may depend on it (R50, U10). Entry 6. -/
opaque idleOutData : Nat → CmdWord → Byte

end Sys2Proof.Config
end

