-- ==== Sys2Proof/Syntax.lean ====
section
/-! DEFINITION. Directions and the four commands of the opcode map (R53), one constructor per row of the opcode table. -/

namespace Sys2Proof

/-- The direction of a rotation (R14, R17): encoded Left = 0, Right = 1 in `STATUS[1]` and in `cmd[9]` of a start command. -/
inductive Direction where
  | left
  | right
  deriving DecidableEq, Repr

/-- A command as its word carries it (R51, R52). The reserved byte of STARTL and END is kept, because the disassembler
of R60 prints it; that no command's effect depends on it is R55. -/
inductive Instr where
  /-- DATA, `op = 0b00`: the next input byte (R98). -/
  | data (b : Byte)
  /-- STARTL, `op = 0b01`: open a left frame; all eight data bits are reserved (R92). -/
  | startl (rsv : Byte)
  /-- STARTR, `op = 0b10`: open a right frame; `p` is the pre-pass copy of the last byte, of which bit 0 is used (R93). -/
  | startr (p : Byte)
  /-- END, `op = 0b11`: close the frame; all eight data bits are reserved (R94). -/
  | endFrame (rsv : Byte)
  deriving DecidableEq, Repr

end Sys2Proof
end

