-- ==== Sys2Proof/Machine/State.lean ====
section
/-! DEFINITION. The state of the block (R15), the pins the host drives (R50), the reasons a step can stop, and the state
after reset (R27, R28). -/

namespace Sys2Proof.Machine

/-- What the host drives on the input ports in one clock cycle (R50). -/
structure Pins where
  /-- `rst`: synchronous reset, active high (R127). -/
  rst : Bool
  /-- `in_valid`: the host presents a command word. -/
  inValid : Bool
  /-- `in_cmd`: the command word (R51). -/
  inCmd : CmdWord
  /-- `out_ready`: the sink can take a byte. -/
  outReady : Bool
  deriving DecidableEq, Repr

/-- Reasons to stop with a fault: none. The block's two faults SEQ and WRAP set a sticky flag and stop nothing (R107,
R119), so they are next states; nobody raises a `Fault`. Safe: there is nothing to raise (entry 10). -/
inductive Fault where
  deriving DecidableEq, Repr

/-- Reasons to refuse an instruction. -/
inductive Refusal where
  /-- Raised only by an arm of `exec` that has no meaning yet. Safe: such an instruction claims nothing. Every arm has its
  meaning, so nobody raises it. -/
  | notModelled (mnemonic : String)
  deriving DecidableEq, Repr

/-- The complete state of one block (R15), the two streams between it and the host (R31, R32), and the model's own tick. -/
structure State where
  /-- `BUSY`: a frame is open (R16). -/
  busy : Bool
  /-- `DIR`: the latched direction (R17). -/
  dir : Direction
  /-- `HOLDV`: `HOLD` keeps a byte not yet emitted (R19). -/
  holdv : Bool
  /-- `HOLD`: in a left frame, the input byte waiting for its `nextBit` (R18). -/
  hold : Byte
  /-- `WRAP`: the wrapBit of the frame (R20). -/
  wrap : Bool
  /-- `CARRY`: in a right frame, the bit carried into the next byte (R21). -/
  carry : Bool
  /-- `ERR_SEQ`: sticky, a command arrived in the wrong phase (R22, R108). -/
  errSeq : Bool
  /-- `ERR_WRAP`: sticky, a right frame ended with `CARRY != WRAP` (R22, R109). -/
  errWrap : Bool
  /-- The output stream (R32, R34): every byte transferred to the sink so far, oldest first. -/
  output : List Byte
  /-- What the host will drive in the coming clock cycles, the next cycle first (R13, R31). Past its end the host presents
  nothing (entry 4). -/
  inputs : List Pins
  /-- Clock edges so far: the MODEL's field, not the block's. It indexes the free values of `Config` (entry 3). -/
  ticks : Nat
  deriving DecidableEq, Repr

/-- A reset state (R27, R28), given the three values the spec leaves unspecified. Nothing presented, nothing emitted. -/
def State.resetWith (hold : Byte) (wrap carry : Bool) : State where
  busy := false
  dir := .left
  holdv := false
  hold := hold
  wrap := wrap
  carry := carry
  errSeq := false
  errWrap := false
  output := []
  inputs := []
  ticks := 0

/-- The reset state the model starts from. DESIGN CHOICE (unsafe, entry 1): `HOLD`, `WRAP` and `CARRY`, unspecified by R28,
are zero here; statements about reset range over `resetWith`. -/
def State.reset : State := State.resetWith 0 false false

end Sys2Proof.Machine
end

