-- ==== Sys2Proof/Machine/Flags.lean ====
section
/-! DEFINITION. The two sticky flags (R22, R107 to R109) and the two views of state a host sees, `STATUS` (R24) and `err`
(R25). -/

namespace Sys2Proof.Machine

/-- `raise SEQ` (R11, R108): the flag, and nothing else. -/
def State.raiseSeq (s : State) : State := { s with errSeq := true }

/-- `raise WRAP` (R11, R109): the flag, and nothing else. -/
def State.raiseWrap (s : State) : State := { s with errWrap := true }

/-- The bit of a direction: Left = 0, Right = 1 (R17). -/
def dirBit : Direction → Bool
  | .left => false
  | .right => true

/-- The status word (R24): `BUSY`, `DIR`, `ERR_SEQ`, `ERR_WRAP` in bits 0 to 3, zeros above. -/
def State.status (s : State) : StatusWord :=
  (0#4) ++ BitVec.ofBool s.errWrap ++ BitVec.ofBool s.errSeq ++ BitVec.ofBool (dirBit s.dir) ++ BitVec.ofBool s.busy

/-- The error line (R25): a level, `ERR_SEQ | ERR_WRAP`. -/
def State.err (s : State) : Bool := s.errSeq || s.errWrap

end Sys2Proof.Machine
end

