-- ==== Sys2Proof/Machine/Operands.lean ====
section
/-! DEFINITION. Operand forms (R52), single-bit extraction (R80) and the byte cell `barrel_shifter_with_carry` (R83 to R85).
The block has no other operand form: no register number, no address, no extension (R52, R100). -/

namespace Sys2Proof.Machine

/-- `msb(b) = b[7]`, mask `0x80` and nothing else (R11, R80). -/
def msb (b : Byte) : Bool := b.getLsbD 7

/-- `lsb(b) = b[0]`, mask `0x01` (R11, R80). -/
def lsb (b : Byte) : Bool := b.getLsbD 0

/-- The bit a STARTR delivers: `cmd[0]`, bit 0 of its operand; `p[7:1]` are ignored (R52, R93). -/
def wrapBitOf (p : Byte) : Bool := lsb p

/-- `SHL1C(b, cin) = ({b[6:0], cin}, b[7])` (R84). -/
def shl1c (b : Byte) (cin : Bool) : Byte × Bool := (b.extractLsb' 0 7 ++ BitVec.ofBool cin, msb b)

/-- `SHR1C(b, cin) = ({cin, b[7:1]}, b[0])` (R85). -/
def shr1c (b : Byte) (cin : Bool) : Byte × Bool := (BitVec.ofBool cin ++ b.extractLsb' 1 7, lsb b)

/-- The cell with its direction select (R83). -/
def cell (d : Direction) (b : Byte) (cin : Bool) : Byte × Bool :=
  match d with
  | .left => shl1c b cin
  | .right => shr1c b cin

end Sys2Proof.Machine
end

