-- ==== Sys2Proof/Machine/Ops.lean ====
section
/-! DEFINITION. The named operations the meanings are made of. The block has no addressed memory (R32): its reads of the
outside are the command words, its one write is `emit`. -/

namespace Sys2Proof.Machine

/-- `emit v` (R11, R34): append one byte to the output stream. -/
def State.emit (s : State) (v : Byte) : State := { s with output := s.output ++ [v] }

/-- The block's whole exception entry, SEQ (R108, R115): the command is discarded, its flag is set, and nothing is saved
or diverted. There is no return from it (R117). -/
def State.discardWithSeq (s : State) : State := s.raiseSeq

/-- Open a frame in direction `d` (R92, R93): the direction is latched and no byte is held. -/
def State.openFrame (s : State) (d : Direction) : State := { s with busy := true, dir := d, holdv := false }

/-- Deliver the wrapBit of a right frame to `WRAP` and to the initial `CARRY` (R93). -/
def State.loadWrap (s : State) (w : Bool) : State := { s with wrap := w, carry := w }

/-- Take byte 0 of a left frame (R98): its MSB is the wrapBit (R20). -/
def State.captureFirst (s : State) (b : Byte) : State := { s with wrap := msb b, hold := b, holdv := true }

/-- Keep a left frame's byte until its `nextBit` is known (R18). -/
def State.holdByte (s : State) (b : Byte) : State := { s with hold := b }

/-- The carry out of a right frame's byte (R21). -/
def State.setCarry (s : State) (c : Bool) : State := { s with carry := c }

/-- Nothing is held any more (R94). -/
def State.dropHeld (s : State) : State := { s with holdv := false }

/-- The frame is closed (R94). -/
def State.closeFrame (s : State) : State := { s with busy := false }

/-- The reset edge (R127, R128): the five control bits to 0; `HOLD`, `WRAP`, `CARRY` any value (R28), here free values of
this clock tick (entry 2). Bytes already emitted stay emitted (R129). -/
def State.takeReset (s : State) : State :=
  { s with
    busy := false
    dir := .left
    holdv := false
    hold := Config.resetHold s.ticks
    wrap := Config.resetWrap s.ticks
    carry := Config.resetCarry s.ticks
    errSeq := false
    errWrap := false }

/-- One clock cycle is over: its pins are used up and the tick advances. The block itself holds its state (R126). -/
def State.clocked (s : State) : State := { s with inputs := s.inputs.tail, ticks := s.ticks + 1 }

end Sys2Proof.Machine
end

