-- ==== Sys2Proof/Machine/DataCommand.lean ====
section
/-! DEFINITION. The DATA command (R98), as its rule's pseudocode. -/

namespace Sys2Proof.Machine

/-- DATA in a left frame (R98): the first byte is captured; a later byte completes the held one with its MSB. -/
def State.dataLeft (s : State) (b : Byte) : State :=
  if s.holdv then (s.emit (shl1c s.hold (msb b)).1).holdByte b else s.captureFirst b

/-- DATA in a right frame (R98): the byte is emitted at once with the carried bit on top; its LSB is carried on. -/
def State.dataRight (s : State) (b : Byte) : State :=
  (s.emit (shr1c b s.carry).1).setCarry (shr1c b s.carry).2

/-- DATA (R98). -/
def execData (b : Byte) (s : State) : Host.Outcome State Fault Refusal :=
  if s.busy then
    match s.dir with
    | .left => .next (s.dataLeft b)
    | .right => .next (s.dataRight b)
  else .next s.discardWithSeq

end Sys2Proof.Machine
end

