-- ==== Sys2Proof/Machine/FrameCommands.lean ====
section
/-! DEFINITION. The frame commands STARTL (R92), STARTR (R93) and END (R94), each as its rule's pseudocode. -/

namespace Sys2Proof.Machine

/-- STARTL (R92). Its data field is reserved and ignored (R55). -/
def execStartl (_rsv : Byte) (s : State) : Host.Outcome State Fault Refusal :=
  if s.busy then .next s.discardWithSeq else .next (s.openFrame .left)

/-- STARTR (R93). Only bit 0 of its operand is used (R52, R55). -/
def execStartr (p : Byte) (s : State) : Host.Outcome State Fault Refusal :=
  if s.busy then .next s.discardWithSeq else .next ((s.openFrame .right).loadWrap (wrapBitOf p))

/-- The left branch of END (R94): the held byte, if any, is completed with the wrapBit and emitted. -/
def State.endLeft (s : State) : State :=
  if s.holdv then ((s.emit (shl1c s.hold s.wrap).1).dropHeld).closeFrame else (s.dropHeld).closeFrame

/-- The right branch of END (R94): the pre-pass bit is checked against the last byte's LSB (R109). -/
def State.endRight (s : State) : State :=
  if s.carry != s.wrap then (s.raiseWrap).closeFrame else s.closeFrame

/-- END (R94). Its data field is reserved and ignored (R55). -/
def execEndFrame (_rsv : Byte) (s : State) : Host.Outcome State Fault Refusal :=
  if s.busy then
    match s.dir with
    | .left => .next s.endLeft
    | .right => .next s.endRight
  else .next s.discardWithSeq

end Sys2Proof.Machine
end

