-- ==== Sys2Proof/Machine/Dispatch.lean ====
section
/-! DEFINITION. The dispatch: one arm per command of the opcode map (R53). -/

namespace Sys2Proof.Machine

def exec (i : Instr) (s : State) : Host.Outcome State Fault Refusal :=
  match i with
  | .data b => Sys2Proof.Machine.execData b s
  | .startl rsv => Sys2Proof.Machine.execStartl rsv s
  | .startr p => Sys2Proof.Machine.execStartr p s
  | .endFrame rsv => Sys2Proof.Machine.execEndFrame rsv s

end Sys2Proof.Machine
end

