-- ==== Sys2Proof/Decode.lean ====
section
/-! DEFINITION. The decoder and the encoder of command words (R51 to R56). Decoding is total: all four values of `op`
are assigned, so no word is refused. -/

namespace Sys2Proof

/-- The `op` field, `cmd[9:8]` (R51). -/
def opField (w : CmdWord) : BitVec 2 := w.extractLsb' 8 2

/-- The `data` field, `cmd[7:0]` (R51). -/
def dataField (w : CmdWord) : Byte := w.extractLsb' 0 8

/-- The opcode map (R53): `op` alone selects the command, the `data` field is used as it stands (R52). -/
def decode (w : CmdWord) : Instr :=
  match (opField w).toNat with
  | 0 => .data (dataField w)
  | 1 => .startl (dataField w)
  | 2 => .startr (dataField w)
  | _ => .endFrame (dataField w)

/-- The `op` value of a command (R53). -/
def Instr.op : Instr → BitVec 2
  | .data _ => 0
  | .startl _ => 1
  | .startr _ => 2
  | .endFrame _ => 3

/-- The byte a command's `data` field carries (R52). -/
def Instr.operand : Instr → Byte
  | .data b => b
  | .startl rsv => rsv
  | .startr p => p
  | .endFrame rsv => rsv

/-- The command word of an instruction: `op` above `data` (R51). -/
def encode (i : Instr) : CmdWord := i.op ++ i.operand

/-- The instruction whose bits are `w`, numbered as the opcode table numbers them. A command is one beat of ten wires
(R51), so of the table's width in whole bytes only bits 9 to 0 are wires; the bits above are padding (entry 8). -/
def decodeTableWord (nbits w : Nat) : Option Instr := some (decode (BitVec.ofNat 10 (w % 2 ^ nbits)))

end Sys2Proof
end

