-- ==== Sys2Proof/Machine/Handshake.lean ====
section
/-! DEFINITION. The ports and their handshake (R50, R127, R142), and what one rising clock edge does with them. -/

namespace Sys2Proof.Machine

/-- The pins of a cycle in which the host presents nothing: no reset, no command, and a sink that takes nothing. -/
def Pins.quiet : Pins := ⟨false, false, 0, false⟩

/-- The pins of the coming clock cycle: the host's next ones, or nothing presented (R13, R145; entry 4). -/
def State.pins (s : State) : Pins := s.inputs.headD Pins.quiet

/-- Whether the step on a command emits a byte (R99): decided by the state and the opcode, never by the data field. -/
def State.produces (s : State) : Instr → Bool
  | .data _ => s.busy && (dirBit s.dir || s.holdv)
  | .endFrame _ => s.busy && !dirBit s.dir && s.holdv
  | .startl _ => false
  | .startr _ => false

/-- The byte operand the one cell of the block is given on a command (R90): the arriving byte in a right frame, `HOLD` in
a left one. -/
def State.cellByte (s : State) (i : Instr) : Byte :=
  match s.dir with
  | .left => s.hold
  | .right => i.operand

/-- The carry the cell is given (R90): `CARRY` in a right frame; in a left one the MSB of an arriving byte, else `WRAP`. -/
def State.cellCarry (s : State) (i : Instr) : Bool :=
  match s.dir, i with
  | .right, _ => s.carry
  | .left, .data b => msb b
  | .left, .startl _ => s.wrap
  | .left, .startr _ => s.wrap
  | .left, .endFrame _ => s.wrap

/-- The cell's output on a command, combinational from the state and the command (R83, R90, R142). -/
def State.cellOut (s : State) (i : Instr) : Byte := (cell s.dir (s.cellByte i) (s.cellCarry i)).1

/-- `in_ready`: 0 while `rst = 1`, else `out_ready` (R127, R142). -/
def inReady (p : Pins) : Bool := !p.rst && p.outReady

/-- `out_valid`: 0 while `rst = 1`, else `in_valid and produces` (R127, R142). -/
def State.outValid (s : State) (p : Pins) : Bool := !p.rst && (p.inValid && s.produces (decode p.inCmd))

/-- `out_data`: the byte of the step while `out_valid = 1`, else any value (R50, R142, U10; entry 6). -/
def State.outData (s : State) (p : Pins) : Byte :=
  if s.outValid p then s.cellOut (decode p.inCmd) else Config.idleOutData s.ticks p.inCmd

/-- A command word is accepted where `in_valid = 1` and `in_ready = 1` (R50). -/
def accepted (p : Pins) : Bool := p.inValid && inReady p

/-- A byte is transferred where `out_valid = 1` and `out_ready = 1` (R50). -/
def State.transferred (s : State) (p : Pins) : Bool := s.outValid p && p.outReady

/-- What the block shows on its output ports in one clock cycle (R50). -/
structure OutPorts where
  /-- `in_ready` -/
  inReady : Bool
  /-- `out_valid` -/
  outValid : Bool
  /-- `out_data` -/
  outData : Byte
  /-- `status` -/
  status : StatusWord
  /-- `err` -/
  err : Bool
  deriving DecidableEq, Repr

/-- The output ports in a cycle with the pins `p` (R24, R25, R50, R142). -/
def State.ports (s : State) (p : Pins) : OutPorts :=
  ⟨inReady p, s.outValid p, s.outData p, s.status, s.err⟩

/-- What a rising clock edge does: reset, a step on an accepted command, or nothing. -/
inductive Edge where
  | reset
  | command (i : Instr)
  | hold
  deriving DecidableEq, Repr

/-- The edge that ends a cycle with the pins `p`: reset wins (R114, R127), then an accepted command (R142), else nothing. -/
def edgeOf (p : Pins) : Edge :=
  if p.rst then .reset else if accepted p then .command (decode p.inCmd) else .hold

/-- The host presents the word `w` in the next cycle, with a sink that is ready and no reset. -/
def State.present (s : State) (w : CmdWord) : State := { s with inputs := ⟨false, true, w, true⟩ :: s.inputs }

end Sys2Proof.Machine
end

