-- ==== Sys2Proof/Machine/Step.lean ====
section
/-! DEFINITION. One step of the machine: one rising edge of `clk` (R50, R142, R143). -/

namespace Sys2Proof.Machine

/-- One rising edge: what the pins of this cycle ask for, on the state whose cycle is over. -/
def step (s : State) : Host.Outcome State Fault Refusal :=
  match edgeOf s.pins with
  | .reset => .next (s.takeReset).clocked
  | .command i => exec i s.clocked
  | .hold => .next s.clocked

/-- `s` with the host presenting that instruction in the next cycle, so that the next step accepts and runs it (entries 8,
9). -/
def State.withFetchWord (s : State) (nbits w : Nat) : State := s.present (BitVec.ofNat 10 (w % 2 ^ nbits))

end Sys2Proof.Machine
end

