-- ==== Sys2Proof/Machine/Run.lean ====
section
/-! DEFINITION. Runs over accepted commands: the left fold of R12, the pseudo-commands ROTL and ROTR (R61, R62), and the
accepted commands of a sequence of clock cycles (R142). -/

namespace Sys2Proof.Machine

/-- The behaviour over a sequence of accepted commands: one command after another (R12, R42). -/
def runCommands : List Instr → State → Host.Outcome State Fault Refusal
  | [], s => .next s
  | i :: rest, s =>
    match exec i s with
    | .next t => runCommands rest t
    | .fault r => .fault r
    | .refused r => .refused r

/-- The body and the close of a frame: DATA for each byte in order, then END. -/
def frameBody (S : List Byte) : List Instr := S.map .data ++ [.endFrame 0]

/-- The pre-pass operand of a right frame (R62): the last byte, or `0x00` for the empty sequence. -/
def prePass (S : List Byte) : Byte := S.getLastD 0

/-- `ROTL S` (R61): the frame that renders `rotate(S, Left)`. -/
def rotl (S : List Byte) : List Instr := .startl 0 :: frameBody S

/-- `ROTR S` (R62): the frame that renders `rotate(S, Right)`. -/
def rotr (S : List Byte) : List Instr := .startr (prePass S) :: frameBody S

/-- The frame of a direction (R61, R62, R63). -/
def frameOf (d : Direction) (S : List Byte) : List Instr :=
  match d with
  | .left => rotl S
  | .right => rotr S

/-- The commands a sequence of clock cycles without reset accepts, in order (R142). -/
def acceptedCommands (ps : List Pins) : List Instr := (ps.filter accepted).map fun p => decode p.inCmd

/-- `s` with the given pins to come. -/
def State.withInputs (s : State) (ps : List Pins) : State := { s with inputs := ps }

end Sys2Proof.Machine
end

