-- ==== Sys2Proof/Machine/Assembly.lean ====
section
/-! DEFINITION. The text form of commands (R60), the pseudo-commands' text (R61, R62) and the direction tokens (R63). Text is
a list of characters. What R60 leaves open (spaces, letter case of the digits, blank lines) is entry 11. -/

namespace Sys2Proof.Machine

/-- One hexadecimal digit; letters are printed in capitals (entry 11). -/
def hexDigit (n : Nat) : Char :=
  match n with
  | 0 => '0' | 1 => '1' | 2 => '2' | 3 => '3' | 4 => '4' | 5 => '5' | 6 => '6' | 7 => '7'
  | 8 => '8' | 9 => '9' | 10 => 'A' | 11 => 'B' | 12 => 'C' | 13 => 'D' | 14 => 'E' | _ => 'F'

/-- The value of a hexadecimal digit; both letter cases are read (entry 11). -/
def hexValue (c : Char) : Option Nat :=
  if '0' ≤ c ∧ c ≤ '9' then some (c.toNat - 48)
  else if 'A' ≤ c ∧ c ≤ 'F' then some (c.toNat - 55)
  else if 'a' ≤ c ∧ c ≤ 'f' then some (c.toNat - 87)
  else none

/-- A byte operand: `0x` and two digits (R60). -/
def byteText (b : Byte) : List Char := ['0', 'x', hexDigit (b.toNat / 16), hexDigit (b.toNat % 16)]

/-- The byte a token of the form `0xhh` denotes (R60). -/
def byteOfText (t : List Char) : Option Byte :=
  match t with
  | ['0', 'x', h, l] =>
    match hexValue h, hexValue l with
    | some a, some b => some (BitVec.ofNat 8 (16 * a + b))
    | _, _ => none
  | _ => none

/-- `DATA` -/
def kwData : List Char := ['D', 'A', 'T', 'A']
/-- `STARTL` -/
def kwStartl : List Char := ['S', 'T', 'A', 'R', 'T', 'L']
/-- `STARTR` -/
def kwStartr : List Char := ['S', 'T', 'A', 'R', 'T', 'R']
/-- `END` -/
def kwEnd : List Char := ['E', 'N', 'D']
/-- `ROTL` -/
def kwRotl : List Char := ['R', 'O', 'T', 'L']
/-- `ROTR` -/
def kwRotr : List Char := ['R', 'O', 'T', 'R']

/-- The comment that shows reserved bits which are not zero (R60). -/
def rsvComment (rsv : Byte) : List Char :=
  if rsv = 0 then [] else [' ', ';', ' ', 'r', 's', 'v', '='] ++ byteText rsv

/-- The disassembler (R60). -/
def disassemble (i : Instr) : List Char :=
  match i with
  | .data b => kwData ++ ' ' :: byteText b
  | .startl rsv => kwStartl ++ rsvComment rsv
  | .startr p => kwStartr ++ ' ' :: byteText p
  | .endFrame rsv => kwEnd ++ rsvComment rsv

/-- A token in front of others, if it has any character. -/
def pushToken (w : List Char) (ts : List (List Char)) : List (List Char) := if w = [] then ts else w :: ts

/-- The token being read and the ones after it: `;` starts a comment (R60), a space ends a token, a bracket or comma is one. -/
def lex : List Char → List Char × List (List Char)
  | [] => ([], [])
  | c :: cs =>
    if c = ';' then ([], [])
    else if c = ' ' then ([], pushToken (lex cs).1 (lex cs).2)
    else if c = '[' ∨ c = ']' ∨ c = ',' then ([], [c] :: pushToken (lex cs).1 (lex cs).2)
    else (c :: (lex cs).1, (lex cs).2)

/-- The tokens of a line. -/
def tokens (line : List Char) : List (List Char) := pushToken (lex line).1 (lex line).2

/-- One or more bytes with commas between them and a closing bracket after them (R61, R62). -/
def bytesToBracket : List (List Char) → Option (List Byte)
  | [x, c] => if c = [']'] then (byteOfText x).map fun b => [b] else none
  | x :: c :: rest =>
    if c = [','] then
      match byteOfText x, bytesToBracket rest with
      | some b, some bs => some (b :: bs)
      | _, _ => none
    else none
  | _ => none

/-- The bracketed operand of a pseudo-command, possibly empty (R61, R62). -/
def bracketedBytes (ts : List (List Char)) : Option (List Byte) :=
  match ts with
  | o :: rest => if o = ['['] then (if rest = [[']']] then some [] else bytesToBracket rest) else none
  | [] => none

/-- The one byte operand of a command. -/
def oneByte (ts : List (List Char)) : Option Byte :=
  match ts with
  | [x] => byteOfText x
  | _ => none

/-- The commands a line's tokens stand for (R60 to R62): none for a line with no command, `N + 2` for a pseudo-command. -/
def parseTokens (ts : List (List Char)) : Option (List Instr) :=
  match ts with
  | [] => some []
  | k :: args =>
    if k = kwData then (oneByte args).map fun b => [.data b]
    else if k = kwStartr then (oneByte args).map fun p => [.startr p]
    else if k = kwStartl then (if args = [] then some [.startl 0] else none)
    else if k = kwEnd then (if args = [] then some [.endFrame 0] else none)
    else if k = kwRotl then (bracketedBytes args).map rotl
    else if k = kwRotr then (bracketedBytes args).map rotr
    else none

/-- The assembler on one line (R60). -/
def assembleLine (line : List Char) : Option (List Instr) := parseTokens (tokens line)

/-- The commands of a program text, one line after another, or nothing if a line has a mistake (R60). -/
def assemble : List (List Char) → Option (List Instr)
  | [] => some []
  | line :: rest =>
    match assembleLine line, assemble rest with
    | some is, some more => some (is ++ more)
    | _, _ => none

/-- A program text's encoding: the list of its command words (R60). -/
def assembleWords (lines : List (List Char)) : Option (List CmdWord) :=
  (assemble lines).map fun is => is.map encode

/-- The bytes of a bracketed operand, from some byte on, with the closing bracket (R61). -/
def bytesText : List Byte → List Char
  | [] => [']']
  | [b] => byteText b ++ [']']
  | b :: c :: rest => byteText b ++ [',', ' '] ++ bytesText (c :: rest)

/-- The text of a pseudo-command (R61, R62). -/
def pseudoText (d : Direction) (S : List Byte) : List Char :=
  match d with
  | .left => kwRotl ++ [' ', '['] ++ bytesText S
  | .right => kwRotr ++ [' ', '['] ++ bytesText S

/-- The direction a token of the surrounding software names: `left` or `right`, letter for letter, nothing else (R63). -/
def directionOfToken (t : List Char) : Option Direction :=
  if t = ['l', 'e', 'f', 't'] then some .left
  else if t = ['r', 'i', 'g', 'h', 't'] then some .right
  else none

/-- The commands a front end sends for a direction token and a byte sequence; none at all for any other token (R63). -/
def commandsOfToken (t : List Char) (S : List Byte) : Option (List Instr) :=
  (directionOfToken t).map fun d => frameOf d S

end Sys2Proof.Machine
end

