-- ==== Sys2Proof/Machine/Rotate.lean ====
section
/-! DEFINITION. `circular_bit_shifter`: the reference function `rotate(S, d)` (R65 to R71), which the block computes per
frame, and the stream bits it is defined by (R10). -/

namespace Sys2Proof.Machine

/-- The left loop of R68 from some byte on: each byte takes the MSB of its successor, the last one the wrapBit. -/
def rotateLeftLoop (wrapBit : Bool) : List Byte → List Byte
  | [] => []
  | [b] => [b.extractLsb' 0 7 ++ BitVec.ofBool wrapBit]
  | b :: c :: rest => (b.extractLsb' 0 7 ++ BitVec.ofBool (msb c)) :: rotateLeftLoop wrapBit (c :: rest)

/-- The right loop of R71 from some byte on: each byte takes the LSB of its predecessor, the first one `carryBit`. -/
def rotateRightLoop (carryBit : Bool) : List Byte → List Byte
  | [] => []
  | b :: rest => (BitVec.ofBool carryBit ++ b.extractLsb' 1 7) :: rotateRightLoop (lsb b) rest

/-- `rotate(S, d)` on bytes (R66, R68, R71): the wrapBit is the MSB of byte 0 (left) or the LSB of byte `N-1` (right); of
the empty sequence there is none and nothing is done. -/
def rotate (d : Direction) (S : List Byte) : List Byte :=
  match d with
  | .left =>
    match S.head? with
    | none => []
    | some b => rotateLeftLoop (msb b) S
  | .right =>
    match S.getLast? with
    | none => []
    | some b => rotateRightLoop (lsb b) S

/-- Stream bit `s` of a byte sequence (R10): MSB of byte 0 first. Meant for `s < 8 * S.length`. -/
def sbit (S : List Byte) (s : Nat) : Bool := (S.getD (s / 8) 0).getLsbD (7 - s % 8)

/-- The number of 1 bits of a byte sequence (R78). -/
def ones (S : List Byte) : Nat := (List.range (8 * S.length)).countP (sbit S)

/-- `k` rotations one after another (R75). -/
def rotateTimes (d : Direction) : Nat → List Byte → List Byte
  | 0, S => S
  | k + 1, S => rotateTimes d k (rotate d S)

end Sys2Proof.Machine
end

