-- ==== Sys2Proof/Machine/FrameMachine.lean ====
section
/-! DEFINITION. The frame-at-once machine: it keeps the whole open frame and, at END, emits the frame's result in one go. It
is what the streaming block is measured against (R26, R101, R102, R106): it says what a command sequence means, frame by
frame, with no hold register and no carry. -/

namespace Sys2Proof.Machine

/-- The frame that is open, with the DATA bytes accepted in it so far (R33). -/
inductive OpenFrame where
  | none
  | left (bytes : List Byte)
  | right (p : Byte) (bytes : List Byte)
  deriving DecidableEq, Repr

/-- The frame-at-once machine's state: the open frame, the bytes of all closed frames, the two sticky flags. -/
structure FrameMachine where
  /-- The open frame. -/
  frame : OpenFrame
  /-- The output of the frames closed so far. -/
  closed : List Byte
  /-- A command came in the wrong phase (R108). -/
  errSeq : Bool
  /-- A right frame closed whose last byte's LSB was not the pre-pass bit (R109). -/
  errWrap : Bool
  deriving DecidableEq, Repr

/-- Before any command. -/
def FrameMachine.start : FrameMachine := ⟨.none, [], false, false⟩

/-- The bit the last byte of a right frame would have to deliver: its LSB, or the pre-pass bit if there is none (R26 d). -/
def lastCarry (p : Byte) (bytes : List Byte) : Bool := lsb (bytes.getLastD p)

/-- One command on the frame-at-once machine. -/
def FrameMachine.after (m : FrameMachine) (i : Instr) : FrameMachine :=
  match m.frame, i with
  | .none, .startl _ => { m with frame := .left [] }
  | .none, .startr p => { m with frame := .right p [] }
  | .none, .data _ => { m with errSeq := true }
  | .none, .endFrame _ => { m with errSeq := true }
  | .left bs, .data b => { m with frame := .left (bs ++ [b]) }
  | .left bs, .endFrame _ => { m with frame := .none, closed := m.closed ++ rotate .left bs }
  | .left _, .startl _ => { m with errSeq := true }
  | .left _, .startr _ => { m with errSeq := true }
  | .right p bs, .data b => { m with frame := .right p (bs ++ [b]) }
  | .right p bs, .endFrame _ =>
    { m with
      frame := .none
      closed := m.closed ++ rotateRightLoop (lsb p) bs
      errWrap := m.errWrap || (lastCarry p bs != lsb p) }
  | .right _ _, .startl _ => { m with errSeq := true }
  | .right _ _, .startr _ => { m with errSeq := true }

/-- A command sequence on the frame-at-once machine. -/
def FrameMachine.run (m : FrameMachine) (cs : List Instr) : FrameMachine := cs.foldl FrameMachine.after m

/-- The bytes an open frame has emitted already (R101, R102): of a left frame all but the last, of a right frame all. -/
def OpenFrame.emitted : OpenFrame → List Byte
  | .none => []
  | .left bs => (rotate .left bs).dropLast
  | .right p bs => rotateRightLoop (lsb p) bs

end Sys2Proof.Machine
end

