-- ==== Sys2Proof/Machine/Phase.lean ====
section
/-! DEFINITION. The four phases (R23) and the phase machine's table (R95). -/

namespace Sys2Proof.Machine

/-- The phases of R23. -/
inductive Phase where
  | idle
  | leftEmpty
  | leftHeld
  | right
  deriving DecidableEq, Repr

/-- The phase of a state (R23): `BUSY`, then `DIR`, then `HOLDV`. -/
def State.phase (s : State) : Phase :=
  if s.busy then
    match s.dir with
    | .left => if s.holdv then .leftHeld else .leftEmpty
    | .right => .right
  else .idle

/-- The phase column of the table of R95. -/
def Phase.after (p : Phase) (i : Instr) : Phase :=
  match p, i with
  | .idle, .startl _ => .leftEmpty
  | .idle, .startr _ => .right
  | .idle, .data _ => .idle
  | .idle, .endFrame _ => .idle
  | .leftEmpty, .startl _ => .leftEmpty
  | .leftEmpty, .startr _ => .leftEmpty
  | .leftEmpty, .data _ => .leftHeld
  | .leftEmpty, .endFrame _ => .idle
  | .leftHeld, .startl _ => .leftHeld
  | .leftHeld, .startr _ => .leftHeld
  | .leftHeld, .data _ => .leftHeld
  | .leftHeld, .endFrame _ => .idle
  | .right, .startl _ => .right
  | .right, .startr _ => .right
  | .right, .data _ => .right
  | .right, .endFrame _ => .idle

/-- The cells of R95 marked SEQ: the command has no meaning in the phase (R108). -/
def Phase.wrongFor (p : Phase) (i : Instr) : Bool :=
  match p, i with
  | .idle, .data _ => true
  | .idle, .endFrame _ => true
  | .idle, .startl _ => false
  | .idle, .startr _ => false
  | _, .startl _ => true
  | _, .startr _ => true
  | _, .data _ => false
  | _, .endFrame _ => false

end Sys2Proof.Machine
end

