-- ==== Sys2Proof/Machine/RunEnd.lean ====
section
/-! DEFINITION. The end of a frame and the end of a run, at the pins (R141). -/

namespace Sys2Proof.Machine

/-- The cycle with the pins `p` completes the open frame: its END is accepted (R141). -/
def State.completesFrame (s : State) (p : Pins) : Bool :=
  s.busy && accepted p &&
    (match decode p.inCmd with
      | .endFrame _ => true
      | .data _ => false
      | .startl _ => false
      | .startr _ => false)

/-- What the command accepted in a cycle with the pins `p` emits: the cell's output where the command produces a byte (R90,
R99), nothing where it does not or where no command is accepted. -/
def State.emittedIn (s : State) (p : Pins) : List Byte :=
  if accepted p && s.produces (decode p.inCmd) then [s.cellOut (decode p.inCmd)] else []

/-- Every byte the commands accepted in these cycles emit, in order, whether or not the sink took it. -/
def emittedOver : List Pins → State → List Byte
  | [], _ => []
  | p :: ps, s =>
    s.emittedIn p ++
      (match step (s.withInputs (p :: ps)) with
        | .next t => emittedOver ps t
        | .fault _ => []
        | .refused _ => [])

/-- The cycles `ps` from the state `s` take the block to `t` and are a complete run of the command list `cs` (R141): all its
commands have been ACCEPTED, not only offered, in order and with no other, and all emitted bytes have been taken. It says
nothing of faults, and nothing of a frame that the list leaves open. -/
def RunComplete (cs : List Instr) (ps : List Pins) (s t : State) : Prop :=
  Host.Core.run Sys2Proof.core ps.length (s.withInputs ps) = .next t ∧
  acceptedCommands ps = cs ∧
  t.output = s.output ++ emittedOver ps s

end Sys2Proof.Machine
end

