-- ==== Sys2Proof/Safety.lean ====
section
/-! DEFINITION. What counts as a safe run, in the terms claims use: no fault recorded (R111), quiescent (R141; the end of a run is
`Machine.RunComplete`),
the control invariant (R26), a reading of the host's side of the handshake (R142, entry 19). -/

namespace Sys2Proof.Safety

open Sys2Proof.Machine

/-- No fault recorded: `STATUS[3:2] == 0` (R111). -/
def NoFault (s : State) : Prop := s.errSeq = false ∧ s.errWrap = false

/-- The block holds no byte and owes no output (R141). -/
def Quiescent (s : State) : Prop := s.busy = false

/-- Every pin the host had to drive is used up. Commands were then offered, not necessarily accepted: this is not the end of a
run, which is `Machine.RunComplete` (R141). -/
def InputsDone (s : State) : Prop := s.inputs = []

/-- R26 (a) and (b): a byte is held only inside a left frame. -/
def ControlInv (s : State) : Prop := s.holdv = true → s.busy = true ∧ s.dir = .left

/-- A host that keeps its offers: a cycle that offers a word and does not get it taken is followed by a cycle that offers the
same word, unless one of the two has `rst = 1`. R142 asks that `in_cmd` is stable while `in_valid = 1` until accepted. DESIGN
CHOICE (safe, entry 19): that `in_valid` stays 1 too, since R142 and G2 leave open whether the host may withdraw it, and that a
reset ends the duty. The block enforces neither (entry 13). -/
def keepsOffer : List Pins → Bool
  | [] => true
  | [_] => true
  | p :: q :: rest => (!p.inValid || accepted p || p.rst || q.rst || (q.inValid && q.inCmd == p.inCmd)) && keepsOffer (q :: rest)

/-- Two states the host cannot tell apart, now or later (R29, R30): all but `HOLD`, `WRAP`, `CARRY` and the model's tick
agree, and each of those three agrees wherever a step can still read it. -/
def SameToTheHost (s t : State) : Prop :=
  s.busy = t.busy ∧ s.dir = t.dir ∧ s.holdv = t.holdv ∧ s.errSeq = t.errSeq ∧ s.errWrap = t.errWrap ∧
  s.output = t.output ∧ s.inputs = t.inputs ∧
  (s.holdv = true → s.hold = t.hold ∧ s.wrap = t.wrap) ∧
  (s.busy = true → s.dir = .right → s.wrap = t.wrap ∧ s.carry = t.carry)

end Sys2Proof.Safety
end

