-- ==== Sys2Proof/WellFormed.lean ====
section
/-! DEFINITION. Well-formedness. Every command word is a command (R56), so nothing about one command can be ill formed for
the block; what has a checked form is the reserved field a host should drive (R52) and the command sequence (R64). -/

namespace Sys2Proof

/-- The reserved bits of STARTL and END are as hosts should drive them, zero (R52): the form the text of R60 has. -/
def Instr.isCanonical (i : Instr) : Bool :=
  match i with
  | .data _ => true
  | .startl rsv => rsv == 0
  | .startr _ => true
  | .endFrame rsv => rsv == 0

/-- The command with its reserved byte, if it has one, driven to zero (R52). -/
def Instr.canonical (i : Instr) : Instr :=
  match i with
  | .data b => .data b
  | .startl _ => .startl 0
  | .startr p => .startr p
  | .endFrame _ => .endFrame 0

/-- The grammar of R64. Reserved bits are not part of it (R55); of a STARTR's operand only the LSB is constrained, and only
when the frame has a byte. -/
inductive WellFormedProgram : List Instr → Prop where
  | nil : WellFormedProgram []
  | left (rsv rsv' : Byte) (S : List Byte) (rest : List Instr) :
      WellFormedProgram rest → WellFormedProgram (.startl rsv :: (S.map Instr.data ++ .endFrame rsv' :: rest))
  | right (p rsv' : Byte) (S : List Byte) (rest : List Instr) :
      (∀ b, S.getLast? = some b → Machine.lsb p = Machine.lsb b) →
      WellFormedProgram rest → WellFormedProgram (.startr p :: (S.map Instr.data ++ .endFrame rsv' :: rest))

/-- Where a checker of R64 is in the grammar: between frames, in a left frame, or in a right frame that was promised the bit
`promised` and whose last byte so far has the LSB `last`. -/
inductive Scan where
  | between
  | inLeft
  | inRight (promised last : Bool)
  deriving DecidableEq, Repr

/-- The checker of R64 from a place in the grammar. -/
def scanProgram : Scan → List Instr → Bool
  | .between, [] => true
  | .inLeft, [] => false
  | .inRight _ _, [] => false
  | .between, .startl _ :: cs => scanProgram .inLeft cs
  | .between, .startr p :: cs => scanProgram (.inRight (Machine.lsb p) (Machine.lsb p)) cs
  | .between, .data _ :: _ => false
  | .between, .endFrame _ :: _ => false
  | .inLeft, .data _ :: cs => scanProgram .inLeft cs
  | .inLeft, .endFrame _ :: cs => scanProgram .between cs
  | .inLeft, .startl _ :: _ => false
  | .inLeft, .startr _ :: _ => false
  | .inRight w _, .data b :: cs => scanProgram (.inRight w (Machine.lsb b)) cs
  | .inRight w l, .endFrame _ :: cs => w == l && scanProgram .between cs
  | .inRight _ _, .startl _ :: _ => false
  | .inRight _ _, .startr _ :: _ => false

/-- The checker over command sequences that R56 and R64 speak of. -/
def programOk (cs : List Instr) : Bool := scanProgram .between cs

end Sys2Proof
end

