-- ==== Sys2Proof/Certificates/Slice0/Obligations.lean ====
section
/-! DEFINITION. The statements for the provers. Each says which rule of the spec it formalises; what rests on a choice of the
model says so. -/

open Sys2Proof Sys2Proof.Machine Sys2Proof.Safety

/-! ## Encoding -/

/-- Words written out from the opcode map (R53) decode to the commands they stand for. -/
def Obligations.SpecWordsDecodeToTheirCommands : Prop :=
  decode 0b0010110010#10 = .data 0xB2 ∧ decode 0b0000000000#10 = .data 0x00 ∧
  decode 0b0100000000#10 = .startl 0x00 ∧ decode 0b0111111111#10 = .startl 0xFF ∧
  decode 0b1000000001#10 = .startr 0x01 ∧ decode 0b1011111110#10 = .startr 0xFE ∧
  decode 0b1100000000#10 = .endFrame 0x00 ∧ decode 0b1110100101#10 = .endFrame 0xA5

/-- Decoding and encoding are inverse to each other: of every command with every operand, and of every one of the 1024
words (R51, R53). -/
def Obligations.DecodeAndEncodeAreInverse : Prop :=
  ∀ (i : Instr) (w : CmdWord), encode i = w ↔ decode w = i

/-- R53: `op` alone selects the command; the match and mask, the ranges, and `cmd[9]` of a start command as the direction
that an idle block latches. -/
def Obligations.OpcodeMapSelectsByOp : Prop :=
  (∀ w : CmdWord,
    (w &&& 0x300#10 = 0x000#10 → decode w = .data (w.extractLsb' 0 8)) ∧
    (w &&& 0x300#10 = 0x100#10 → decode w = .startl (w.extractLsb' 0 8)) ∧
    (w &&& 0x300#10 = 0x200#10 → decode w = .startr (w.extractLsb' 0 8)) ∧
    (w &&& 0x300#10 = 0x300#10 → decode w = .endFrame (w.extractLsb' 0 8)) ∧
    (w &&& 0x300#10 = 0x000#10 ↔ w.toNat ≤ 0x0FF) ∧
    (w &&& 0x300#10 = 0x100#10 ↔ 0x100 ≤ w.toNat ∧ w.toNat ≤ 0x1FF) ∧
    (w &&& 0x300#10 = 0x200#10 ↔ 0x200 ≤ w.toNat ∧ w.toNat ≤ 0x2FF) ∧
    (w &&& 0x300#10 = 0x300#10 ↔ 0x300 ≤ w.toNat)) ∧
  (∀ (w : CmdWord) (s : State), s.busy = false → (w &&& 0x300#10 = 0x100#10 ∨ w &&& 0x300#10 = 0x200#10) →
    ∃ t, exec (decode w) s = .next t ∧ dirBit t.dir = w.getLsbD 9)

/-- R51: written as a number a command word is `op * 256 + data`. -/
def Obligations.CommandWordIsOpTimes256PlusData : Prop :=
  ∀ i : Instr, (encode i).toNat =
    (match i with
      | .data b => 0 * 256 + b.toNat
      | .startl b => 1 * 256 + b.toNat
      | .startr b => 2 * 256 + b.toNat
      | .endFrame b => 3 * 256 + b.toNat)

/-- R55: words that differ only in reserved bits have identical effect on state, output, `STATUS` and `err`; and a cycle that
offers one of them offers a byte where the other does, and the same byte. -/
def Obligations.ReservedBitsAreIgnored : Prop :=
  ∀ (w v : CmdWord) (s : State), w.extractLsb' 8 2 = v.extractLsb' 8 2 →
    (w.extractLsb' 8 2 = 0b01#2 ∨ w.extractLsb' 8 2 = 0b11#2 ∨
      (w.extractLsb' 8 2 = 0b10#2 ∧ w.getLsbD 0 = v.getLsbD 0)) →
    exec (decode w) s = exec (decode v) s ∧
    ∀ ready : Bool,
      s.outValid ⟨false, true, w, ready⟩ = s.outValid ⟨false, true, v, ready⟩ ∧
      (s.outValid ⟨false, true, w, ready⟩ = true → s.outData ⟨false, true, w, ready⟩ = s.outData ⟨false, true, v, ready⟩)

/-! ## The cell -/

/-- R84, R85: the cell's outputs as concatenations, as numbers, and the 8-bit rotations as the corner case; the direction
select chooses between the two (R83). -/
def Obligations.CellShiftsOnePlaceWithCarry : Prop :=
  ∀ (d : Direction) (b : Byte) (cin : Bool),
    cell d b cin = (if d = .left then shl1c b cin else shr1c b cin) ∧
    shl1c b cin = (b.extractLsb' 0 7 ++ BitVec.ofBool cin, b.getLsbD 7) ∧
    (shl1c b cin).1.toNat = 2 * b.toNat % 256 + cin.toNat ∧ (shl1c b cin).2.toNat = b.toNat / 128 ∧
    (shl1c b (b.getLsbD 7)).1 = b.rotateLeft 1 ∧
    shr1c b cin = (BitVec.ofBool cin ++ b.extractLsb' 1 7, b.getLsbD 0) ∧
    (shr1c b cin).1.toNat = b.toNat / 2 + 128 * cin.toNat ∧ (shr1c b cin).2.toNat = b.toNat % 2 ∧
    (shr1c b (b.getLsbD 0)).1 = b.rotateRight 1

/-- R86: the two functions of the cell undo each other, and each is a bijection on pairs of a byte and a bit. -/
def Obligations.CellDirectionsUndoEachOther : Prop :=
  (∀ (b o : Byte) (c k : Bool), shl1c b c = (o, k) ↔ shr1c o k = (b, c)) ∧
  Function.Bijective (fun x : Byte × Bool => shl1c x.1 x.2) ∧
  Function.Bijective (fun x : Byte × Bool => shr1c x.1 x.2)

/-! ## The function `rotate` -/

/-- R67: a left rotation moves every stream bit to the next lower index, round the end. -/
def Obligations.LeftRotationMovesStreamBitsDown : Prop :=
  ∀ (S : List Byte) (s : Nat), s < 8 * S.length →
    sbit (rotate .left S) s = sbit S ((s + 1) % (8 * S.length))

/-- R70: a right rotation moves every stream bit to the next higher index, round the end. -/
def Obligations.RightRotationMovesStreamBitsUp : Prop :=
  ∀ (S : List Byte) (s : Nat), s < 8 * S.length →
    sbit (rotate .right S) s = sbit S ((s + 8 * S.length - 1) % (8 * S.length))

/-- R68, R71: the byte rules and their closed forms. -/
def Obligations.RotatedBytesFollowTheByteRules : Prop :=
  ∀ (S : List Byte) (i : Nat), i < S.length →
    (rotate .left S)[i]? =
      some ((S.getD i 0).extractLsb' 0 7 ++
        BitVec.ofBool (if i + 1 < S.length then (S.getD (i + 1) 0).getLsbD 7 else (S.getD 0 0).getLsbD 7)) ∧
    (rotate .left S)[i]? = some ((S.getD i 0 <<< 1) ||| (S.getD ((i + 1) % S.length) 0 >>> 7)) ∧
    (rotate .right S)[i]? =
      some (BitVec.ofBool (if 0 < i then (S.getD (i - 1) 0).getLsbD 0 else (S.getD (S.length - 1) 0).getLsbD 0) ++
        (S.getD i 0).extractLsb' 1 7) ∧
    (rotate .right S)[i]? =
      some ((S.getD i 0 >>> 1) ||| ((S.getD ((i + S.length - 1) % S.length) 0 &&& 1) <<< 7))

/-- R87: `rotate` is a ring of cells joined by their carries. -/
def Obligations.RotationIsARingOfCells : Prop :=
  ∀ (S : List Byte) (i : Nat) (x : Bool), i < S.length →
    (rotate .left S)[i]? = some (shl1c (S.getD i 0) (shl1c (S.getD ((i + 1) % S.length) 0) x).2).1 ∧
    (rotate .right S)[i]? = some (shr1c (S.getD i 0) (shr1c (S.getD ((i + S.length - 1) % S.length) 0) x).2).1

/-- R66, R72: the empty sequence, and the single byte, whose neighbour is itself. -/
def Obligations.EmptyAndSingleByteRotations : Prop :=
  (∀ d, rotate d [] = []) ∧
  ∀ b : Byte,
    rotate .left [b] = [b.extractLsb' 0 7 ++ BitVec.ofBool (b.getLsbD 7)] ∧ rotate .left [b] = [b.rotateLeft 1] ∧
    rotate .right [b] = [BitVec.ofBool (b.getLsbD 0) ++ b.extractLsb' 1 7] ∧ rotate .right [b] = [b.rotateRight 1]

/-- R73: length preservation. -/
def Obligations.RotationKeepsLength : Prop :=
  ∀ (d : Direction) (S : List Byte), (rotate d S).length = S.length

/-- R74: the two rotations are inverse to each other, on every sequence. -/
def Obligations.RotationsAreInverse : Prop :=
  ∀ S : List Byte, rotate .right (rotate .left S) = S ∧ rotate .left (rotate .right S) = S

/-- R75: `8N` rotations are the identity; `k` left rotations move a stream bit by `k`; counts that agree modulo `8N` agree;
left rotations are right rotations the other way round. -/
def Obligations.RotationHasPeriodEightTimesLength : Prop :=
  ∀ S : List Byte,
    (∀ d, rotateTimes d (8 * S.length) S = S) ∧
    (∀ k s, s < 8 * S.length → sbit (rotateTimes .left k S) s = sbit S ((s + k) % (8 * S.length))) ∧
    (∀ k k', k % (8 * S.length) = k' % (8 * S.length) → rotateTimes .left k S = rotateTimes .left k' S) ∧
    (S ≠ [] → ∀ k,
      rotateTimes .left k S = rotateTimes .right (8 * S.length - k % (8 * S.length)) S)

/-- R78: rotation permutes bits. -/
def Obligations.RotationPermutesBits : Prop :=
  ∀ d : Direction,
    (∀ S : List Byte, ones (rotate d S) = ones S) ∧
    ∀ n, rotate d (List.replicate n 0x00#8) = List.replicate n 0x00#8 ∧
      rotate d (List.replicate n 0xFF#8) = List.replicate n 0xFF#8

/-! ## What each command does -/

/-- R92, STARTL: its words, its effect while idle, its discarding while a frame is open, and the rule's example. -/
def Obligations.StartlOpensALeftFrame : Prop :=
  (∀ r : Byte, decode (0b01#2 ++ r) = .startl r) ∧
  (∀ (r : Byte) (s : State), s.busy = false →
    exec (.startl r) s = .next { s with busy := true, dir := .left, holdv := false }) ∧
  (∀ (r : Byte) (s : State), s.busy = true → exec (.startl r) s = .next { s with errSeq := true }) ∧
  (∀ (h : Byte) (w c : Bool), ∃ t, exec (.startl 0) (State.resetWith h w c) = .next t ∧ t.status = 0x01 ∧
    t.output = (State.resetWith h w c).output)

/-- R93, STARTR: its words, its effect while idle, its discarding while a frame is open, and the rule's example. -/
def Obligations.StartrOpensARightFrameWithItsWrapBit : Prop :=
  (∀ p : Byte, decode (0b10#2 ++ p) = .startr p) ∧
  (∀ (p : Byte) (s : State), s.busy = false →
    exec (.startr p) s =
      .next { s with busy := true, dir := .right, holdv := false, wrap := p.getLsbD 0, carry := p.getLsbD 0 }) ∧
  (∀ (p : Byte) (s : State), s.busy = true → exec (.startr p) s = .next { s with errSeq := true }) ∧
  (∀ (h : Byte) (w c : Bool), ∃ t, exec (.startr 0x01) (State.resetWith h w c) = .next t ∧
    t.wrap = true ∧ t.carry = true ∧ t.status = 0x03 ∧ t.output = (State.resetWith h w c).output)

/-- R94, END: its words, and its effect in each branch: idle, a left frame without and with a held byte, a right frame. -/
def Obligations.EndClosesTheFrame : Prop :=
  (∀ r : Byte, decode (0b11#2 ++ r) = .endFrame r) ∧
  (∀ (r : Byte) (s : State), s.busy = false → exec (.endFrame r) s = .next { s with errSeq := true }) ∧
  (∀ (r : Byte) (s : State), s.busy = true → s.dir = .left → s.holdv = false →
    exec (.endFrame r) s = .next { s with busy := false, holdv := false }) ∧
  (∀ (r : Byte) (s : State), s.busy = true → s.dir = .left → s.holdv = true →
    exec (.endFrame r) s =
      .next { s with
        busy := false
        holdv := false
        output := s.output ++ [s.hold.extractLsb' 0 7 ++ BitVec.ofBool s.wrap] }) ∧
  (∀ (r : Byte) (s : State), s.busy = true → s.dir = .right → s.carry = s.wrap →
    exec (.endFrame r) s = .next { s with busy := false }) ∧
  (∀ (r : Byte) (s : State), s.busy = true → s.dir = .right → s.carry ≠ s.wrap →
    exec (.endFrame r) s = .next { s with busy := false, errWrap := true })

/-- R98, DATA: its words, and its effect in each branch: idle, the first byte of a left frame, a later byte of a left frame,
a byte of a right frame. -/
def Obligations.DataSuppliesTheNextByte : Prop :=
  (∀ b : Byte, decode (0b00#2 ++ b) = .data b) ∧
  (∀ (b : Byte) (s : State), s.busy = false → exec (.data b) s = .next { s with errSeq := true }) ∧
  (∀ (b : Byte) (s : State), s.busy = true → s.dir = .left → s.holdv = false →
    exec (.data b) s = .next { s with wrap := b.getLsbD 7, hold := b, holdv := true }) ∧
  (∀ (b : Byte) (s : State), s.busy = true → s.dir = .left → s.holdv = true →
    exec (.data b) s =
      .next { s with output := s.output ++ [s.hold.extractLsb' 0 7 ++ BitVec.ofBool (b.getLsbD 7)], hold := b }) ∧
  (∀ (b : Byte) (s : State), s.busy = true → s.dir = .right →
    exec (.data b) s =
      .next { s with output := s.output ++ [BitVec.ofBool s.carry ++ b.extractLsb' 1 7], carry := b.getLsbD 0 })

/-! ## Frames: what each command leaves unchanged -/

/-- STARTL and STARTR leave the output stream, `HOLD`, `ERR_WRAP`, the host's pins and the tick as they were; STARTL leaves
`WRAP` and `CARRY` too; while a frame is open both leave everything but `ERR_SEQ`; while idle both leave `ERR_SEQ`. -/
def Obligations.StartCommandsLeaveTheRest : Prop :=
  ∀ (i : Instr) (r : Byte) (s t : State), (i = .startl r ∨ i = .startr r) → exec i s = .next t →
    (t.output = s.output ∧ t.hold = s.hold ∧ t.errWrap = s.errWrap ∧ t.inputs = s.inputs ∧ t.ticks = s.ticks) ∧
    (i = .startl r → t.wrap = s.wrap ∧ t.carry = s.carry) ∧
    (s.busy = true → t.busy = s.busy ∧ t.dir = s.dir ∧ t.holdv = s.holdv ∧ t.wrap = s.wrap ∧ t.carry = s.carry) ∧
    (s.busy = false → t.errSeq = s.errSeq)

/-- END leaves `DIR`, `HOLD`, `WRAP`, `CARRY`, the host's pins, the tick and every byte already emitted as they were; it
emits one byte at most, and none unless a left frame holds one; it leaves `ERR_WRAP` outside a right frame and `ERR_SEQ`
inside any frame; in a right frame it leaves `HOLDV`. -/
def Obligations.EndLeavesTheRest : Prop :=
  ∀ (r : Byte) (s t : State), exec (.endFrame r) s = .next t →
    (t.dir = s.dir ∧ t.hold = s.hold ∧ t.wrap = s.wrap ∧ t.carry = s.carry ∧ t.inputs = s.inputs ∧ t.ticks = s.ticks) ∧
    (∃ e, t.output = s.output ++ e ∧ e.length ≤ 1 ∧ (¬(s.busy = true ∧ s.dir = .left ∧ s.holdv = true) → e = [])) ∧
    (s.busy = true → t.errSeq = s.errSeq) ∧
    (¬(s.busy = true ∧ s.dir = .right) → t.errWrap = s.errWrap) ∧
    (s.dir = .right → t.holdv = s.holdv) ∧
    (s.busy = false → t.busy = s.busy ∧ t.holdv = s.holdv)

/-- DATA leaves `BUSY`, `DIR`, `ERR_WRAP`, the host's pins, the tick and every byte already emitted as they were; `WRAP`
unless it is the first of a left frame; `HOLD` and `HOLDV` outside a left frame; `CARRY` outside a right frame; `ERR_SEQ`
inside any frame. -/
def Obligations.DataLeavesTheRest : Prop :=
  ∀ (b : Byte) (s t : State), exec (.data b) s = .next t →
    (t.busy = s.busy ∧ t.dir = s.dir ∧ t.errWrap = s.errWrap ∧ t.inputs = s.inputs ∧ t.ticks = s.ticks) ∧
    (∃ e, t.output = s.output ++ e ∧ e.length ≤ 1) ∧
    (¬(s.busy = true ∧ s.dir = .left ∧ s.holdv = false) → t.wrap = s.wrap) ∧
    (¬(s.busy = true ∧ s.dir = .left) → t.hold = s.hold ∧ t.holdv = s.holdv) ∧
    (¬(s.busy = true ∧ s.dir = .right) → t.carry = s.carry) ∧
    (s.busy = true → t.errSeq = s.errSeq) ∧
    (s.busy = false → t.output = s.output)

/-- The "written by" column of R15, in the form of its governing rules: where an element differs after a command, the command
is one of those named for it, in the phase its rule names. -/
def Obligations.OnlyTheNamedCommandsWriteEachElement : Prop :=
  ∀ (i : Instr) (s t : State), exec i s = .next t →
    (t.busy ≠ s.busy → (s.busy = false ∧ ∃ r, i = .startl r ∨ i = .startr r) ∨ (s.busy = true ∧ ∃ r, i = .endFrame r)) ∧
    (t.dir ≠ s.dir → s.busy = false ∧ ∃ r, i = .startl r ∨ i = .startr r) ∧
    (t.holdv ≠ s.holdv →
      (s.busy = false ∧ ∃ r, i = .startl r ∨ i = .startr r) ∨
      (s.busy = true ∧ s.dir = .left ∧ ∃ r, i = .data r ∨ i = .endFrame r)) ∧
    (t.hold ≠ s.hold → s.busy = true ∧ s.dir = .left ∧ ∃ b, i = .data b) ∧
    (t.wrap ≠ s.wrap →
      (s.busy = false ∧ ∃ p, i = .startr p) ∨ (s.busy = true ∧ s.dir = .left ∧ s.holdv = false ∧ ∃ b, i = .data b)) ∧
    (t.carry ≠ s.carry →
      (s.busy = false ∧ ∃ p, i = .startr p) ∨ (s.busy = true ∧ s.dir = .right ∧ ∃ b, i = .data b)) ∧
    (t.errSeq ≠ s.errSeq →
      (s.busy = true ∧ ∃ r, i = .startl r ∨ i = .startr r) ∨ (s.busy = false ∧ ∃ r, i = .data r ∨ i = .endFrame r)) ∧
    (t.errWrap ≠ s.errWrap → s.busy = true ∧ s.dir = .right ∧ ∃ r, i = .endFrame r) ∧
    (t.output ≠ s.output → s.busy = true ∧ ∃ r, i = .data r ∨ i = .endFrame r)

/-! ## Phases, faults, status -/

/-- R95: the phase table, cell by cell. Every command in every phase ends in a next state; the cells marked SEQ leave all but
the flag as it was; each other cell gives the next phase, the byte emitted and the elements written. -/
def Obligations.PhaseTableHolds : Prop :=
  ∀ (i : Instr) (s : State), ∃ t, exec i s = .next t ∧ t.phase = s.phase.after i ∧
    (s.phase.wrongFor i = true → t = { s with errSeq := true }) ∧
    (s.phase.wrongFor i = false → t.errSeq = s.errSeq) ∧
    (∀ r, s.phase = .idle → i = .startl r → t.output = s.output) ∧
    (∀ p, s.phase = .idle → i = .startr p → t.output = s.output ∧ t.wrap = p.getLsbD 0 ∧ t.carry = p.getLsbD 0) ∧
    (∀ b, s.phase = .leftEmpty → i = .data b → t.output = s.output ∧ t.hold = b ∧ t.wrap = b.getLsbD 7) ∧
    (∀ r, s.phase = .leftEmpty → i = .endFrame r → t.output = s.output) ∧
    (∀ b, s.phase = .leftHeld → i = .data b →
      t.output = s.output ++ [s.hold.extractLsb' 0 7 ++ BitVec.ofBool (b.getLsbD 7)] ∧ t.hold = b) ∧
    (∀ r, s.phase = .leftHeld → i = .endFrame r →
      t.output = s.output ++ [s.hold.extractLsb' 0 7 ++ BitVec.ofBool s.wrap]) ∧
    (∀ b, s.phase = .right → i = .data b →
      t.output = s.output ++ [BitVec.ofBool s.carry ++ b.extractLsb' 1 7] ∧ t.carry = b.getLsbD 0) ∧
    (∀ r, s.phase = .right → i = .endFrame r →
      t.output = s.output ∧ t.errWrap = (s.errWrap || (s.carry != s.wrap)))

/-- R110: the complete cause table: what raises each flag, and that nothing else does. -/
def Obligations.FaultsHaveExactlyTheirCauses : Prop :=
  ∀ (i : Instr) (s : State), ∃ t, exec i s = .next t ∧
    t.errSeq = (s.errSeq ||
      (match i with
        | .data _ => !s.busy
        | .endFrame _ => !s.busy
        | .startl _ => s.busy
        | .startr _ => s.busy)) ∧
    t.errWrap = (s.errWrap ||
      (match i with
        | .endFrame _ => s.busy && decide (s.dir = .right) && (s.carry != s.wrap)
        | .data _ => false
        | .startl _ => false
        | .startr _ => false)) ∧
    (t.errSeq = true → s.errSeq = false → t = { s with errSeq := true })

/-- R114: a step raises at most one fault, and reset beats a command in the same cycle. -/
def Obligations.AStepRaisesAtMostOneFault : Prop :=
  (∀ (i : Instr) (s t : State), s.errSeq = false → s.errWrap = false → exec i s = .next t →
    ¬(t.errSeq = true ∧ t.errWrap = true)) ∧
  (∀ (s : State) (p : Pins) (rest : List Pins), s.inputs = p :: rest → p.rst = true →
    accepted p = false ∧ ∃ t, step s = .next t ∧ t.errSeq = false ∧ t.errWrap = false ∧ t.output = s.output)

/-- R108: DATA or END while idle, STARTL or STARTR while a frame is open: `ERR_SEQ` is set, in bit 2 of `STATUS`, nothing
else changes, and whatever follows runs as if the command had not been sent, but for the sticky flag (R119). -/
def Obligations.StrayCommandOnlyRecordsSeq : Prop :=
  ∀ (i : Instr) (cs : List Instr) (s : State),
    ((s.busy = false ∧ ∃ r, i = .data r ∨ i = .endFrame r) ∨ (s.busy = true ∧ ∃ r, i = .startl r ∨ i = .startr r)) →
    exec i s = .next { s with errSeq := true } ∧ ({ s with errSeq := true } : State).status.getLsbD 2 = true ∧
    ∃ t, runCommands cs s = .next t ∧ runCommands (i :: cs) s = .next { t with errSeq := true }

/-- R22, R119: no step reads the flags: with other flags, every command does the same to everything else. -/
def Obligations.NoCommandReadsTheFlags : Prop :=
  ∀ (cs : List Instr) (s t : State) (es ew : Bool), runCommands cs s = .next t →
    ∃ fs fw, runCommands cs { s with errSeq := es, errWrap := ew } = .next { t with errSeq := fs, errWrap := fw } ∧
      (es = true → fs = true) ∧ (ew = true → fw = true)

/-- R24: the layout of `STATUS`, its value after reset, and that the reachable values are exactly 0x00 to 0x0F. -/
def Obligations.StatusShowsFourFlags : Prop :=
  (∀ s : State,
    s.status.getLsbD 0 = s.busy ∧ s.status.getLsbD 1 = decide (s.dir = .right) ∧ s.status.getLsbD 2 = s.errSeq ∧
    s.status.getLsbD 3 = s.errWrap ∧ s.status.extractLsb' 4 4 = 0b0000#4) ∧
  (∀ (h : Byte) (w c : Bool), (State.resetWith h w c).status = 0x00) ∧
  (∀ (h : Byte) (w c : Bool) (v : StatusWord),
    (∃ cs t, runCommands cs (State.resetWith h w c) = .next t ∧ t.status = v) ↔ v.toNat < 16)

/-- R25: `err` is the level `ERR_SEQ | ERR_WRAP`, and it falls only at reset. -/
def Obligations.ErrLineFallsOnlyAtReset : Prop :=
  (∀ s : State, s.err = true ↔ s.errSeq = true ∨ s.errWrap = true) ∧
  (∀ s t : State, step s = .next t → s.err = true → t.err = false → ∃ p rest, s.inputs = p :: rest ∧ p.rst = true)

/-! ## Invariants -/

/-- R26 (a), (b): every step, from any state that has it, keeps the control invariant: a byte is held only in a left frame. -/
def Obligations.EveryStepKeepsTheControlInvariant : Prop :=
  ∀ s t : State, ControlInv s → step s = .next t → ControlInv t

/-- The reset state has the control invariant, whatever values R28 leaves open. -/
def Obligations.ResetHasTheControlInvariant : Prop :=
  ControlInv State.reset ∧ ∀ (h : Byte) (w c : Bool), ControlInv (State.resetWith h w c)

/-- R22, R26 (e): without reset no step clears a flag, and no flag is cleared by any command. -/
def Obligations.FlagsAreStickyUntilReset : Prop :=
  (∀ s t : State, step s = .next t → (∀ p rest, s.inputs = p :: rest → p.rst = false) →
    (s.errSeq = true → t.errSeq = true) ∧ (s.errWrap = true → t.errWrap = true)) ∧
  (∀ (cs : List Instr) (s t : State), runCommands cs s = .next t →
    (s.errSeq = true → t.errSeq = true) ∧ (s.errWrap = true → t.errWrap = true))

/-- R26: in every state reachable from reset by any command sequence, the registers hold what the open frame's commands put
there: (a), (b) by the first two cases, (c) by the left case, (d) by the right case, and (e) by the last clause. -/
def Obligations.ReachableStatesHoldTheOpenFrame : Prop :=
  ∀ (cs : List Instr) (h : Byte) (w c : Bool), ∃ t, runCommands cs (State.resetWith h w c) = .next t ∧
    (match (FrameMachine.start.run cs).frame with
      | .none => t.busy = false ∧ t.holdv = false
      | .left bs =>
        t.busy = true ∧ t.dir = .left ∧ (t.holdv = true ↔ bs ≠ []) ∧
        (∀ b, bs.getLast? = some b → t.hold = b) ∧ (∀ b, bs.head? = some b → t.wrap = b.getLsbD 7)
      | .right p bs =>
        t.busy = true ∧ t.dir = .right ∧ t.holdv = false ∧ t.wrap = p.getLsbD 0 ∧
        t.carry = (bs.getLastD p).getLsbD 0) ∧
    (∀ i u, exec i t = .next u → (t.errSeq = true → u.errSeq = true) ∧ (t.errWrap = true → u.errWrap = true))

/-- The streaming block emits, flag for flag and byte for byte, what the frame-at-once machine does: the results of the
closed frames in full, and of the open one what its direction allows so far (R101, R102, R104 to R106). -/
def Obligations.StreamingBlockRefinesFrameAtOnceMachine : Prop :=
  ∀ (cs : List Instr) (h : Byte) (w c : Bool), ∃ t, runCommands cs (State.resetWith h w c) = .next t ∧
    t.output = (FrameMachine.start.run cs).closed ++ (FrameMachine.start.run cs).frame.emitted ∧
    t.errSeq = (FrameMachine.start.run cs).errSeq ∧ t.errWrap = (FrameMachine.start.run cs).errWrap ∧
    (t.busy = false ↔ (FrameMachine.start.run cs).frame = .none)

/-! ## What frames compute -/

/-- R104: left frames compute `rotate(., Left)`, from every idle state. -/
def Obligations.LeftFramesComputeRotateLeft : Prop :=
  ∀ (S : List Byte) (s : State), s.busy = false →
    ∃ t, runCommands (rotl S) s = .next t ∧ t.output = s.output ++ rotate .left S ∧
      t.errSeq = s.errSeq ∧ t.errWrap = s.errWrap ∧ t.busy = false ∧ t.dir = .left ∧ t.holdv = false

/-- R105: right frames compute `rotate(., Right)`, from every idle state. -/
def Obligations.RightFramesComputeRotateRight : Prop :=
  ∀ (S : List Byte) (s : State), s.busy = false →
    ∃ t, runCommands (rotr S) s = .next t ∧ t.output = s.output ++ rotate .right S ∧
      t.errSeq = s.errSeq ∧ t.errWrap = s.errWrap ∧ t.busy = false ∧ t.dir = .right ∧ t.holdv = false

/-- R101: an open left frame of `m >= 1` bytes: its registers, the `m - 1` bytes emitted so far, and that they are bytes of
the rotation of every sequence that begins so. -/
def Obligations.OpenLeftFrameHoldsItsLastByte : Prop :=
  ∀ (S : List Byte) (r : Byte) (s : State), s.busy = false → S ≠ [] →
    ∃ t e, runCommands (.startl r :: S.map Instr.data) s = .next t ∧
      t.busy = true ∧ t.dir = .left ∧ t.holdv = true ∧
      t.hold = S.getLastD 0 ∧ t.wrap = (S.headD 0).getLsbD 7 ∧
      t.output = s.output ++ e ∧ e.length = S.length - 1 ∧
      (∀ j, j + 1 < S.length →
        e[j]? = some ((S.getD j 0).extractLsb' 0 7 ++ BitVec.ofBool ((S.getD (j + 1) 0).getLsbD 7))) ∧
      (∀ more, e = (rotate .left (S ++ more)).take (S.length - 1))

/-- R102: an open right frame of `m >= 0` bytes: its registers and the `m` bytes emitted so far. -/
def Obligations.OpenRightFrameCarriesItsLastBit : Prop :=
  ∀ (S : List Byte) (p : Byte) (s : State), s.busy = false →
    ∃ t e, runCommands (.startr p :: S.map Instr.data) s = .next t ∧
      t.busy = true ∧ t.dir = .right ∧ t.holdv = false ∧ t.wrap = p.getLsbD 0 ∧
      t.carry = (S.getLastD p).getLsbD 0 ∧
      t.output = s.output ++ e ∧ e.length = S.length ∧
      (0 < S.length → e[0]? = some (BitVec.ofBool (p.getLsbD 0) ++ (S.getD 0 0).extractLsb' 1 7)) ∧
      (∀ j, 0 < j → j < S.length →
        e[j]? = some (BitVec.ofBool ((S.getD (j - 1) 0).getLsbD 0) ++ (S.getD j 0).extractLsb' 1 7))

/-- R103: bytes per frame, with start commands discarded inside it: left, all but one by the DATA commands and one by END;
right, all by the DATA commands and none by END. -/
def Obligations.FrameEmitsOneBytePerData : Prop :=
  ∀ (o : Instr) (body : List Instr) (r : Byte) (s : State), s.busy = false →
    (∀ i ∈ body, ∀ q, i ≠ .endFrame q) →
    ∀ n, n = (body.filterMap fun i => match i with
      | .data b => some b
      | .startl _ => none
      | .startr _ => none
      | .endFrame _ => none).length →
    ∃ t u, runCommands (o :: body) s = .next t ∧ runCommands (o :: body ++ [.endFrame r]) s = .next u ∧
      ((∃ q, o = .startl q) → t.output.length = s.output.length + (n - 1) ∧ u.output.length = s.output.length + n) ∧
      ((∃ q, o = .startr q) → t.output.length = s.output.length + n ∧ u.output.length = s.output.length + n)

/-- R109: a right frame opened with the wrong pre-pass bit has only the MSB of its first byte inverted; END records WRAP in
bit 3 of `STATUS` and closes the frame as any END does. -/
def Obligations.WrongPrePassInvertsOneBitAndRecordsWrap : Prop :=
  ∀ (S : List Byte) (p : Byte) (s : State), s.busy = false → S ≠ [] → p.getLsbD 0 ≠ (S.getLastD 0).getLsbD 0 →
    ∃ t b rest, runCommands (.startr p :: frameBody S) s = .next t ∧ rotate .right S = b :: rest ∧
      t.output = s.output ++ (b ^^^ 0x80) :: rest ∧
      t.errWrap = true ∧ t.status.getLsbD 3 = true ∧ t.errSeq = s.errSeq ∧ t.busy = false ∧ t.dir = .right

/-- R74 on the block: a left frame and then a right frame over its output give the sequence back (program P5's shape). -/
def Obligations.LeftThenRightFrameGivesTheBytesBack : Prop :=
  ∀ (S : List Byte) (s : State), s.busy = false →
    ∃ t, runCommands (rotl S ++ rotr (rotate .left S)) s = .next t ∧
      t.output = s.output ++ rotate .left S ++ S ∧ t.busy = false ∧ t.errSeq = s.errSeq ∧ t.errWrap = s.errWrap

/-- R96: the direction is fixed for the length of a frame: only a start command while idle writes it, so no command sequence
without END changes it inside a frame. -/
def Obligations.DirectionIsFixedInsideAFrame : Prop :=
  (∀ (i : Instr) (s t : State), exec i s = .next t → t.dir ≠ s.dir → s.busy = false ∧ ∃ r, i = .startl r ∨ i = .startr r) ∧
  (∀ (cs : List Instr) (s : State), s.busy = true → (∀ i ∈ cs, ∀ r, i ≠ .endFrame r) →
    ∃ t, runCommands cs s = .next t ∧ t.busy = true ∧ t.dir = s.dir)

/-! ## Well-formed sequences -/

/-- The checker over command sequences decides the grammar of R64. -/
def Obligations.CheckerDecidesTheGrammar : Prop :=
  ∀ cs : List Instr, programOk cs = true ↔ WellFormedProgram cs

/-- R64: from an idle state with no flag set, the well-formed sequences are exactly those that leave the block idle with no
flag set. -/
def Obligations.WellFormedExactlyWhenCleanAndIdle : Prop :=
  ∀ (cs : List Instr) (s : State), s.busy = false → NoFault s →
    ∃ t, runCommands cs s = .next t ∧ (WellFormedProgram cs ↔ NoFault t ∧ Quiescent t)

/-! ## What cannot be seen -/

/-- R29: the output stream, `STATUS` and `err` are functions of the command sequence since reset, whatever `HOLD`, `WRAP` and
`CARRY` held after reset. -/
def Obligations.UnspecifiedResetValuesAreNeverSeen : Prop :=
  ∀ (cs : List Instr) (h h' : Byte) (w w' c c' : Bool),
    ∃ t t', runCommands cs (State.resetWith h w c) = .next t ∧ runCommands cs (State.resetWith h' w' c') = .next t' ∧
      t.output = t'.output ∧ t.status = t'.status ∧ t.err = t'.err

/-- R29, R30 at the clock: states that differ only in scratch no step can read stay so under every clock edge, reset edges
included, and show the same ports, `out_data` wherever `out_valid = 1`. The free values of the two sides may differ. -/
def Obligations.ScratchStaysInvisibleAtEveryEdge : Prop :=
  ∀ s t : State, SameToTheHost s t →
    (∃ s' t', step s = .next s' ∧ step t = .next t' ∧ SameToTheHost s' t') ∧
    (∀ p : Pins, s.outValid p = t.outValid p ∧ s.status = t.status ∧ s.err = t.err ∧
      (s.outValid p = true → s.outData p = t.outData p))

/-- R49: nothing emitted depends on earlier frames: from any two idle states the same commands emit the same bytes. -/
def Obligations.FramesForgetEarlierFrames : Prop :=
  ∀ (cs : List Instr) (s s' : State), s.busy = false → s'.busy = false →
    ∃ t t' e, runCommands cs s = .next t ∧ runCommands cs s' = .next t' ∧
      t.output = s.output ++ e ∧ t'.output = s'.output ++ e

/-! ## The clock edge, reset and the handshake -/

/-- A step runs the decoded command: in a cycle without reset that offers a word to a block whose sink is ready, the step is
`exec` of that word's command, on the state whose cycle is over (R12, R142). Every step, whatever it does, uses up the pins of
one cycle and advances the tick (the model's choice, entries 3 and 4). -/
def Obligations.StepRunsTheDecodedCommand : Prop :=
  (∀ (s : State) (p : Pins) (rest : List Pins), s.inputs = p :: rest →
    p.rst = false → p.inValid = true → p.outReady = true →
    step s = exec (decode p.inCmd) { s with inputs := rest, ticks := s.ticks + 1 }) ∧
  (∀ s t : State, step s = .next t → t.inputs = s.inputs.tail ∧ t.ticks = s.ticks + 1)

/-- R127: at an edge with `rst = 1`, from any state and whatever else is presented, the block takes a reset state; the command
offered is not accepted and nothing is emitted. What it takes for `HOLD`, `WRAP` and `CARRY` is not said. -/
def Obligations.ResetEdgeGivesTheResetState : Prop :=
  ∀ (s : State) (p : Pins) (rest : List Pins), s.inputs = p :: rest → p.rst = true →
    inReady p = false ∧ s.outValid p = false ∧
    ∃ t, step s = .next t ∧
      t.busy = false ∧ t.dir = .left ∧ t.holdv = false ∧ t.errSeq = false ∧ t.errWrap = false ∧
      t.status = 0x00 ∧ t.err = false ∧ t.phase = .idle ∧ t.output = s.output

/-- R126, R145: a cycle that accepts nothing and resets nothing changes nothing in the block, in any phase. That a cycle for
which the host gave no pins is such a cycle is the model's choice (entry 4). -/
def Obligations.NothingHappensWithoutACommand : Prop :=
  (∀ (s : State) (p : Pins) (rest : List Pins), s.inputs = p :: rest →
    p.rst = false → (p.inValid = false ∨ p.outReady = false) →
    step s = .next { s with inputs := rest, ticks := s.ticks + 1 }) ∧
  (∀ s : State, s.inputs = [] → step s = .next { s with ticks := s.ticks + 1 })

/-- R142: outside reset `in_ready = out_ready`, `out_valid = in_valid and produces`, and a byte moves exactly in the cycles
where both `out_valid` and `out_ready` are 1; the byte that moves is `out_data`. -/
def Obligations.HandshakeMovesTheEmittedByte : Prop :=
  ∀ (s : State) (p : Pins) (rest : List Pins), s.inputs = p :: rest → p.rst = false →
    inReady p = p.outReady ∧
    s.outValid p = (p.inValid && s.produces (decode p.inCmd)) ∧
    (accepted p = true ↔ p.inValid = true ∧ p.outReady = true) ∧
    ∃ t, step s = .next t ∧ t.inputs = rest ∧
      t.output = s.output ++ (if s.outValid p = true ∧ p.outReady = true then [s.outData p] else [])

/-- R99: whether a step emits is a function of the state and the opcode alone; where it holds exactly one byte is emitted,
and none elsewhere. -/
def Obligations.EmissionIsDecidedByStateAndOpcode : Prop :=
  (∀ (i : Instr) (s : State),
    s.produces i = true ↔
      ((∃ b, i = .data b) ∧ s.busy = true ∧ s.dir = .right) ∨
      ((∃ b, i = .data b) ∧ s.busy = true ∧ s.dir = .left ∧ s.holdv = true) ∨
      ((∃ r, i = .endFrame r) ∧ s.busy = true ∧ s.dir = .left ∧ s.holdv = true)) ∧
  (∀ (i : Instr) (s : State), ∃ t, exec i s = .next t ∧
    (s.produces i = true → ∃ v, t.output = s.output ++ [v]) ∧
    (s.produces i = false → t.output = s.output)) ∧
  (∀ (w v : CmdWord) (s : State), w.extractLsb' 8 2 = v.extractLsb' 8 2 →
    s.produces (decode w) = s.produces (decode v))

/-- R12, R144: over any cycles without reset, whatever the pattern of `in_valid` and `out_ready`, the machine does what the
accepted commands do, in order; so two patterns that accept the same commands give the same bytes, state and flags. -/
def Obligations.OnlyTheAcceptedCommandsMatter : Prop :=
  (∀ (ps rest : List Pins) (s : State), s.inputs = ps ++ rest → (∀ p ∈ ps, p.rst = false) →
    ∃ t, runCommands (acceptedCommands ps) s = .next t ∧
      Host.Core.run Sys2Proof.core ps.length s = .next { t with inputs := rest, ticks := s.ticks + ps.length }) ∧
  (∀ (ps qs : List Pins) (s : State), (∀ p ∈ ps, p.rst = false) → (∀ q ∈ qs, q.rst = false) →
    acceptedCommands ps = acceptedCommands qs →
    ∃ t u : State, Host.Core.run Sys2Proof.core ps.length (s.withInputs ps) = .next t ∧
      Host.Core.run Sys2Proof.core qs.length (s.withInputs qs) = .next u ∧ t = { u with ticks := t.ticks })

/-- R146: the block is ready whenever the sink is and reset is low, no step stops, and END leads back to `IDLE` from every
phase. -/
def Obligations.BlockNeverHangs : Prop :=
  (∀ p : Pins, p.rst = false → p.outReady = true → inReady p = true) ∧
  (∀ s : State, ∃ t, step s = .next t) ∧
  (∀ (i : Instr) (s : State), ∃ t, exec i s = .next t) ∧
  (∀ (r : Byte) (s : State), ∃ t, exec (.endFrame r) s = .next t ∧ t.phase = .idle)

/-- R141: over any cycles, resets included, a run of a command list is complete exactly when all its commands have been
accepted: every byte they emitted has then been taken. The step that accepts an open frame's END leaves the block quiescent; a
quiescent block holds no byte and owes no output: with nothing offered it offers nothing and emits nothing, for good. A
complete run need not be free of faults, and one that ends inside a frame may leave its last byte unemitted. -/
def Obligations.RunIsCompleteWhenAllCommandsAreAccepted : Prop :=
  (∀ (cs : List Instr) (ps : List Pins) (s : State),
    ∃ t, Host.Core.run Sys2Proof.core ps.length (s.withInputs ps) = .next t ∧
      (RunComplete cs ps s t ↔ acceptedCommands ps = cs)) ∧
  (∀ (s : State) (p : Pins) (rest : List Pins), s.inputs = p :: rest → s.completesFrame p = true →
    ∃ t, step s = .next t ∧ Quiescent t) ∧
  (∀ (s : State) (ps : List Pins), ControlInv s → Quiescent s → (∀ p ∈ ps, p.rst = false ∧ p.inValid = false) →
    s.holdv = false ∧ (∀ p ∈ ps, s.outValid p = false) ∧
    ∃ t, Host.Core.run Sys2Proof.core ps.length (s.withInputs ps) = .next t ∧ t.output = s.output ∧ Quiescent t) ∧
  (∀ s : State, s.busy = false →
    (∃ cs ps t, RunComplete cs ps s t ∧ Quiescent t ∧ ¬ NoFault t) ∧
    (∃ cs ps t, RunComplete cs ps s t ∧ ¬ Quiescent t ∧ t.holdv = true ∧ t.output = s.output))

/-! ## Text -/

/-- R60: the assembler reads back what the disassembler prints; of reserved bits, printed as a comment, it reads nothing.
Spaces and letter case are the model's choice (entry 11). -/
def Obligations.AssemblerReadsTheDisassembly : Prop :=
  ∀ i : Instr, assembleLine (disassemble i) = some [i.canonical]

/-- R61, R62: the text of a pseudo-command stands for its frame of `N + 2` commands. Spaces and letter case are the model's
choice (entry 11). -/
def Obligations.PseudoCommandsExpandToTheirFrames : Prop :=
  ∀ (d : Direction) (S : List Byte),
    assembleLine (pseudoText d S) = some (frameOf d S) ∧ (frameOf d S).length = S.length + 2

/-- R63: the token `left` gives ROTL and `right` gives ROTR; any other token gives no command at all. -/
def Obligations.DirectionTokensSelectTheFrame : Prop :=
  ∀ (t : List Char) (S : List Byte),
    commandsOfToken ['l', 'e', 'f', 't'] S = some (.startl 0 :: (S.map Instr.data ++ [.endFrame 0])) ∧
    commandsOfToken ['r', 'i', 'g', 'h', 't'] S = some (.startr (S.getLastD 0) :: (S.map Instr.data ++ [.endFrame 0])) ∧
    (t ≠ ['l', 'e', 'f', 't'] → t ≠ ['r', 'i', 'g', 'h', 't'] → commandsOfToken t S = none)
end

