-- ==== Sys2Proof/Laws/State.lean ====
section
/-! SUPPORT. One lemma per field per update of State, each true by unfolding the update, so that no later proof unfolds a
record update. -/

namespace Sys2Proof.Machine

variable (s : State)

@[simp] theorem State.raiseSeq_busy : s.raiseSeq.busy = s.busy := rfl
@[simp] theorem State.raiseSeq_dir : s.raiseSeq.dir = s.dir := rfl
@[simp] theorem State.raiseSeq_holdv : s.raiseSeq.holdv = s.holdv := rfl
@[simp] theorem State.raiseSeq_hold : s.raiseSeq.hold = s.hold := rfl
@[simp] theorem State.raiseSeq_wrap : s.raiseSeq.wrap = s.wrap := rfl
@[simp] theorem State.raiseSeq_carry : s.raiseSeq.carry = s.carry := rfl
@[simp] theorem State.raiseSeq_errSeq : s.raiseSeq.errSeq = true := rfl
@[simp] theorem State.raiseSeq_errWrap : s.raiseSeq.errWrap = s.errWrap := rfl
@[simp] theorem State.raiseSeq_output : s.raiseSeq.output = s.output := rfl
@[simp] theorem State.raiseSeq_inputs : s.raiseSeq.inputs = s.inputs := rfl
@[simp] theorem State.raiseSeq_ticks : s.raiseSeq.ticks = s.ticks := rfl

@[simp] theorem State.raiseWrap_busy : s.raiseWrap.busy = s.busy := rfl
@[simp] theorem State.raiseWrap_dir : s.raiseWrap.dir = s.dir := rfl
@[simp] theorem State.raiseWrap_holdv : s.raiseWrap.holdv = s.holdv := rfl
@[simp] theorem State.raiseWrap_hold : s.raiseWrap.hold = s.hold := rfl
@[simp] theorem State.raiseWrap_wrap : s.raiseWrap.wrap = s.wrap := rfl
@[simp] theorem State.raiseWrap_carry : s.raiseWrap.carry = s.carry := rfl
@[simp] theorem State.raiseWrap_errSeq : s.raiseWrap.errSeq = s.errSeq := rfl
@[simp] theorem State.raiseWrap_errWrap : s.raiseWrap.errWrap = true := rfl
@[simp] theorem State.raiseWrap_output : s.raiseWrap.output = s.output := rfl
@[simp] theorem State.raiseWrap_inputs : s.raiseWrap.inputs = s.inputs := rfl
@[simp] theorem State.raiseWrap_ticks : s.raiseWrap.ticks = s.ticks := rfl

@[simp] theorem State.emit_busy (v : Byte) : (s.emit v).busy = s.busy := rfl
@[simp] theorem State.emit_dir (v : Byte) : (s.emit v).dir = s.dir := rfl
@[simp] theorem State.emit_holdv (v : Byte) : (s.emit v).holdv = s.holdv := rfl
@[simp] theorem State.emit_hold (v : Byte) : (s.emit v).hold = s.hold := rfl
@[simp] theorem State.emit_wrap (v : Byte) : (s.emit v).wrap = s.wrap := rfl
@[simp] theorem State.emit_carry (v : Byte) : (s.emit v).carry = s.carry := rfl
@[simp] theorem State.emit_errSeq (v : Byte) : (s.emit v).errSeq = s.errSeq := rfl
@[simp] theorem State.emit_errWrap (v : Byte) : (s.emit v).errWrap = s.errWrap := rfl
@[simp] theorem State.emit_output (v : Byte) : (s.emit v).output = s.output ++ [v] := rfl
@[simp] theorem State.emit_inputs (v : Byte) : (s.emit v).inputs = s.inputs := rfl
@[simp] theorem State.emit_ticks (v : Byte) : (s.emit v).ticks = s.ticks := rfl

@[simp] theorem State.discardWithSeq_busy : s.discardWithSeq.busy = s.busy := rfl
@[simp] theorem State.discardWithSeq_dir : s.discardWithSeq.dir = s.dir := rfl
@[simp] theorem State.discardWithSeq_holdv : s.discardWithSeq.holdv = s.holdv := rfl
@[simp] theorem State.discardWithSeq_hold : s.discardWithSeq.hold = s.hold := rfl
@[simp] theorem State.discardWithSeq_wrap : s.discardWithSeq.wrap = s.wrap := rfl
@[simp] theorem State.discardWithSeq_carry : s.discardWithSeq.carry = s.carry := rfl
@[simp] theorem State.discardWithSeq_errSeq : s.discardWithSeq.errSeq = true := rfl
@[simp] theorem State.discardWithSeq_errWrap : s.discardWithSeq.errWrap = s.errWrap := rfl
@[simp] theorem State.discardWithSeq_output : s.discardWithSeq.output = s.output := rfl
@[simp] theorem State.discardWithSeq_inputs : s.discardWithSeq.inputs = s.inputs := rfl
@[simp] theorem State.discardWithSeq_ticks : s.discardWithSeq.ticks = s.ticks := rfl

@[simp] theorem State.openFrame_busy (d : Direction) : (s.openFrame d).busy = true := rfl
@[simp] theorem State.openFrame_dir (d : Direction) : (s.openFrame d).dir = d := rfl
@[simp] theorem State.openFrame_holdv (d : Direction) : (s.openFrame d).holdv = false := rfl
@[simp] theorem State.openFrame_hold (d : Direction) : (s.openFrame d).hold = s.hold := rfl
@[simp] theorem State.openFrame_wrap (d : Direction) : (s.openFrame d).wrap = s.wrap := rfl
@[simp] theorem State.openFrame_carry (d : Direction) : (s.openFrame d).carry = s.carry := rfl
@[simp] theorem State.openFrame_errSeq (d : Direction) : (s.openFrame d).errSeq = s.errSeq := rfl
@[simp] theorem State.openFrame_errWrap (d : Direction) : (s.openFrame d).errWrap = s.errWrap := rfl
@[simp] theorem State.openFrame_output (d : Direction) : (s.openFrame d).output = s.output := rfl
@[simp] theorem State.openFrame_inputs (d : Direction) : (s.openFrame d).inputs = s.inputs := rfl
@[simp] theorem State.openFrame_ticks (d : Direction) : (s.openFrame d).ticks = s.ticks := rfl

@[simp] theorem State.loadWrap_busy (w : Bool) : (s.loadWrap w).busy = s.busy := rfl
@[simp] theorem State.loadWrap_dir (w : Bool) : (s.loadWrap w).dir = s.dir := rfl
@[simp] theorem State.loadWrap_holdv (w : Bool) : (s.loadWrap w).holdv = s.holdv := rfl
@[simp] theorem State.loadWrap_hold (w : Bool) : (s.loadWrap w).hold = s.hold := rfl
@[simp] theorem State.loadWrap_wrap (w : Bool) : (s.loadWrap w).wrap = w := rfl
@[simp] theorem State.loadWrap_carry (w : Bool) : (s.loadWrap w).carry = w := rfl
@[simp] theorem State.loadWrap_errSeq (w : Bool) : (s.loadWrap w).errSeq = s.errSeq := rfl
@[simp] theorem State.loadWrap_errWrap (w : Bool) : (s.loadWrap w).errWrap = s.errWrap := rfl
@[simp] theorem State.loadWrap_output (w : Bool) : (s.loadWrap w).output = s.output := rfl
@[simp] theorem State.loadWrap_inputs (w : Bool) : (s.loadWrap w).inputs = s.inputs := rfl
@[simp] theorem State.loadWrap_ticks (w : Bool) : (s.loadWrap w).ticks = s.ticks := rfl

@[simp] theorem State.captureFirst_busy (b : Byte) : (s.captureFirst b).busy = s.busy := rfl
@[simp] theorem State.captureFirst_dir (b : Byte) : (s.captureFirst b).dir = s.dir := rfl
@[simp] theorem State.captureFirst_holdv (b : Byte) : (s.captureFirst b).holdv = true := rfl
@[simp] theorem State.captureFirst_hold (b : Byte) : (s.captureFirst b).hold = b := rfl
@[simp] theorem State.captureFirst_wrap (b : Byte) : (s.captureFirst b).wrap = msb b := rfl
@[simp] theorem State.captureFirst_carry (b : Byte) : (s.captureFirst b).carry = s.carry := rfl
@[simp] theorem State.captureFirst_errSeq (b : Byte) : (s.captureFirst b).errSeq = s.errSeq := rfl
@[simp] theorem State.captureFirst_errWrap (b : Byte) : (s.captureFirst b).errWrap = s.errWrap := rfl
@[simp] theorem State.captureFirst_output (b : Byte) : (s.captureFirst b).output = s.output := rfl
@[simp] theorem State.captureFirst_inputs (b : Byte) : (s.captureFirst b).inputs = s.inputs := rfl
@[simp] theorem State.captureFirst_ticks (b : Byte) : (s.captureFirst b).ticks = s.ticks := rfl

@[simp] theorem State.holdByte_busy (b : Byte) : (s.holdByte b).busy = s.busy := rfl
@[simp] theorem State.holdByte_dir (b : Byte) : (s.holdByte b).dir = s.dir := rfl
@[simp] theorem State.holdByte_holdv (b : Byte) : (s.holdByte b).holdv = s.holdv := rfl
@[simp] theorem State.holdByte_hold (b : Byte) : (s.holdByte b).hold = b := rfl
@[simp] theorem State.holdByte_wrap (b : Byte) : (s.holdByte b).wrap = s.wrap := rfl
@[simp] theorem State.holdByte_carry (b : Byte) : (s.holdByte b).carry = s.carry := rfl
@[simp] theorem State.holdByte_errSeq (b : Byte) : (s.holdByte b).errSeq = s.errSeq := rfl
@[simp] theorem State.holdByte_errWrap (b : Byte) : (s.holdByte b).errWrap = s.errWrap := rfl
@[simp] theorem State.holdByte_output (b : Byte) : (s.holdByte b).output = s.output := rfl
@[simp] theorem State.holdByte_inputs (b : Byte) : (s.holdByte b).inputs = s.inputs := rfl
@[simp] theorem State.holdByte_ticks (b : Byte) : (s.holdByte b).ticks = s.ticks := rfl

@[simp] theorem State.setCarry_busy (c : Bool) : (s.setCarry c).busy = s.busy := rfl
@[simp] theorem State.setCarry_dir (c : Bool) : (s.setCarry c).dir = s.dir := rfl
@[simp] theorem State.setCarry_holdv (c : Bool) : (s.setCarry c).holdv = s.holdv := rfl
@[simp] theorem State.setCarry_hold (c : Bool) : (s.setCarry c).hold = s.hold := rfl
@[simp] theorem State.setCarry_wrap (c : Bool) : (s.setCarry c).wrap = s.wrap := rfl
@[simp] theorem State.setCarry_carry (c : Bool) : (s.setCarry c).carry = c := rfl
@[simp] theorem State.setCarry_errSeq (c : Bool) : (s.setCarry c).errSeq = s.errSeq := rfl
@[simp] theorem State.setCarry_errWrap (c : Bool) : (s.setCarry c).errWrap = s.errWrap := rfl
@[simp] theorem State.setCarry_output (c : Bool) : (s.setCarry c).output = s.output := rfl
@[simp] theorem State.setCarry_inputs (c : Bool) : (s.setCarry c).inputs = s.inputs := rfl
@[simp] theorem State.setCarry_ticks (c : Bool) : (s.setCarry c).ticks = s.ticks := rfl

@[simp] theorem State.dropHeld_busy : s.dropHeld.busy = s.busy := rfl
@[simp] theorem State.dropHeld_dir : s.dropHeld.dir = s.dir := rfl
@[simp] theorem State.dropHeld_holdv : s.dropHeld.holdv = false := rfl
@[simp] theorem State.dropHeld_hold : s.dropHeld.hold = s.hold := rfl
@[simp] theorem State.dropHeld_wrap : s.dropHeld.wrap = s.wrap := rfl
@[simp] theorem State.dropHeld_carry : s.dropHeld.carry = s.carry := rfl
@[simp] theorem State.dropHeld_errSeq : s.dropHeld.errSeq = s.errSeq := rfl
@[simp] theorem State.dropHeld_errWrap : s.dropHeld.errWrap = s.errWrap := rfl
@[simp] theorem State.dropHeld_output : s.dropHeld.output = s.output := rfl
@[simp] theorem State.dropHeld_inputs : s.dropHeld.inputs = s.inputs := rfl
@[simp] theorem State.dropHeld_ticks : s.dropHeld.ticks = s.ticks := rfl

@[simp] theorem State.closeFrame_busy : s.closeFrame.busy = false := rfl
@[simp] theorem State.closeFrame_dir : s.closeFrame.dir = s.dir := rfl
@[simp] theorem State.closeFrame_holdv : s.closeFrame.holdv = s.holdv := rfl
@[simp] theorem State.closeFrame_hold : s.closeFrame.hold = s.hold := rfl
@[simp] theorem State.closeFrame_wrap : s.closeFrame.wrap = s.wrap := rfl
@[simp] theorem State.closeFrame_carry : s.closeFrame.carry = s.carry := rfl
@[simp] theorem State.closeFrame_errSeq : s.closeFrame.errSeq = s.errSeq := rfl
@[simp] theorem State.closeFrame_errWrap : s.closeFrame.errWrap = s.errWrap := rfl
@[simp] theorem State.closeFrame_output : s.closeFrame.output = s.output := rfl
@[simp] theorem State.closeFrame_inputs : s.closeFrame.inputs = s.inputs := rfl
@[simp] theorem State.closeFrame_ticks : s.closeFrame.ticks = s.ticks := rfl

@[simp] theorem State.takeReset_busy : s.takeReset.busy = false := rfl
@[simp] theorem State.takeReset_dir : s.takeReset.dir = .left := rfl
@[simp] theorem State.takeReset_holdv : s.takeReset.holdv = false := rfl
@[simp] theorem State.takeReset_hold : s.takeReset.hold = Config.resetHold s.ticks := rfl
@[simp] theorem State.takeReset_wrap : s.takeReset.wrap = Config.resetWrap s.ticks := rfl
@[simp] theorem State.takeReset_carry : s.takeReset.carry = Config.resetCarry s.ticks := rfl
@[simp] theorem State.takeReset_errSeq : s.takeReset.errSeq = false := rfl
@[simp] theorem State.takeReset_errWrap : s.takeReset.errWrap = false := rfl
@[simp] theorem State.takeReset_output : s.takeReset.output = s.output := rfl
@[simp] theorem State.takeReset_inputs : s.takeReset.inputs = s.inputs := rfl
@[simp] theorem State.takeReset_ticks : s.takeReset.ticks = s.ticks := rfl

@[simp] theorem State.clocked_busy : s.clocked.busy = s.busy := rfl
@[simp] theorem State.clocked_dir : s.clocked.dir = s.dir := rfl
@[simp] theorem State.clocked_holdv : s.clocked.holdv = s.holdv := rfl
@[simp] theorem State.clocked_hold : s.clocked.hold = s.hold := rfl
@[simp] theorem State.clocked_wrap : s.clocked.wrap = s.wrap := rfl
@[simp] theorem State.clocked_carry : s.clocked.carry = s.carry := rfl
@[simp] theorem State.clocked_errSeq : s.clocked.errSeq = s.errSeq := rfl
@[simp] theorem State.clocked_errWrap : s.clocked.errWrap = s.errWrap := rfl
@[simp] theorem State.clocked_output : s.clocked.output = s.output := rfl
@[simp] theorem State.clocked_inputs : s.clocked.inputs = s.inputs.tail := rfl
@[simp] theorem State.clocked_ticks : s.clocked.ticks = s.ticks + 1 := rfl

@[simp] theorem State.withInputs_busy (ps : List Pins) : (s.withInputs ps).busy = s.busy := rfl
@[simp] theorem State.withInputs_dir (ps : List Pins) : (s.withInputs ps).dir = s.dir := rfl
@[simp] theorem State.withInputs_holdv (ps : List Pins) : (s.withInputs ps).holdv = s.holdv := rfl
@[simp] theorem State.withInputs_hold (ps : List Pins) : (s.withInputs ps).hold = s.hold := rfl
@[simp] theorem State.withInputs_wrap (ps : List Pins) : (s.withInputs ps).wrap = s.wrap := rfl
@[simp] theorem State.withInputs_carry (ps : List Pins) : (s.withInputs ps).carry = s.carry := rfl
@[simp] theorem State.withInputs_errSeq (ps : List Pins) : (s.withInputs ps).errSeq = s.errSeq := rfl
@[simp] theorem State.withInputs_errWrap (ps : List Pins) : (s.withInputs ps).errWrap = s.errWrap := rfl
@[simp] theorem State.withInputs_output (ps : List Pins) : (s.withInputs ps).output = s.output := rfl
@[simp] theorem State.withInputs_inputs (ps : List Pins) : (s.withInputs ps).inputs = ps := rfl
@[simp] theorem State.withInputs_ticks (ps : List Pins) : (s.withInputs ps).ticks = s.ticks := rfl

@[simp] theorem State.present_busy (w : CmdWord) : (s.present w).busy = s.busy := rfl
@[simp] theorem State.present_dir (w : CmdWord) : (s.present w).dir = s.dir := rfl
@[simp] theorem State.present_holdv (w : CmdWord) : (s.present w).holdv = s.holdv := rfl
@[simp] theorem State.present_hold (w : CmdWord) : (s.present w).hold = s.hold := rfl
@[simp] theorem State.present_wrap (w : CmdWord) : (s.present w).wrap = s.wrap := rfl
@[simp] theorem State.present_carry (w : CmdWord) : (s.present w).carry = s.carry := rfl
@[simp] theorem State.present_errSeq (w : CmdWord) : (s.present w).errSeq = s.errSeq := rfl
@[simp] theorem State.present_errWrap (w : CmdWord) : (s.present w).errWrap = s.errWrap := rfl
@[simp] theorem State.present_output (w : CmdWord) : (s.present w).output = s.output := rfl
@[simp] theorem State.present_inputs (w : CmdWord) : (s.present w).inputs = ⟨false, true, w, true⟩ :: s.inputs := rfl
@[simp] theorem State.present_ticks (w : CmdWord) : (s.present w).ticks = s.ticks := rfl

@[simp] theorem State.resetWith_busy (h : Byte) (w c : Bool) : (State.resetWith h w c).busy = false := rfl
@[simp] theorem State.resetWith_dir (h : Byte) (w c : Bool) : (State.resetWith h w c).dir = .left := rfl
@[simp] theorem State.resetWith_holdv (h : Byte) (w c : Bool) : (State.resetWith h w c).holdv = false := rfl
@[simp] theorem State.resetWith_hold (h : Byte) (w c : Bool) : (State.resetWith h w c).hold = h := rfl
@[simp] theorem State.resetWith_wrap (h : Byte) (w c : Bool) : (State.resetWith h w c).wrap = w := rfl
@[simp] theorem State.resetWith_carry (h : Byte) (w c : Bool) : (State.resetWith h w c).carry = c := rfl
@[simp] theorem State.resetWith_errSeq (h : Byte) (w c : Bool) : (State.resetWith h w c).errSeq = false := rfl
@[simp] theorem State.resetWith_errWrap (h : Byte) (w c : Bool) : (State.resetWith h w c).errWrap = false := rfl
@[simp] theorem State.resetWith_output (h : Byte) (w c : Bool) : (State.resetWith h w c).output = [] := rfl
@[simp] theorem State.resetWith_inputs (h : Byte) (w c : Bool) : (State.resetWith h w c).inputs = [] := rfl
@[simp] theorem State.resetWith_ticks (h : Byte) (w c : Bool) : (State.resetWith h w c).ticks = 0 := rfl

end Sys2Proof.Machine
end

