-- ==== Sys2Proof/Laws/Ops.lean ====
section
/-! SUPPORT. One lemma per shared operation saying once what it can do: the cell bit by bit, the views of state, the runs, the
clock edge, the loops of `rotate`. Later proofs cite these. -/

namespace Sys2Proof.Machine

/-! The cell, bit by bit (R84, R85). -/

theorem shl1c_out_bit (b : Byte) (c : Bool) (k : Nat) :
    (shl1c b c).1.getLsbD k = if k = 0 then c else (decide (k < 8) && b.getLsbD (k - 1)) := by
  show @BitVec.getLsbD (7 + 1) (b.extractLsb' 0 7 ++ BitVec.ofBool c) k = _
  rw [BitVec.getLsbD_append]
  rcases k with _ | k <;> simp [Nat.succ_lt_succ_iff]

theorem shl1c_cout (b : Byte) (c : Bool) : (shl1c b c).2 = b.getLsbD 7 := rfl

theorem shr1c_out_bit (b : Byte) (c : Bool) (k : Nat) (hk : k < 8) :
    (shr1c b c).1.getLsbD k = if k = 7 then c else b.getLsbD (k + 1) := by
  show @BitVec.getLsbD (1 + 7) (BitVec.ofBool c ++ b.extractLsb' 1 7) k = _
  rw [BitVec.getLsbD_append]
  by_cases h : k = 7
  · subst h; simp
  · have h7 : k < 7 := by omega
    simp [h, h7, Nat.add_comm]

theorem shr1c_cout (b : Byte) (c : Bool) : (shr1c b c).2 = b.getLsbD 0 := rfl

/-! Every command ends in a next state (R12): the inversion the other lemmas start from. -/

theorem execData_next (b : Byte) (s : State) :
    execData b s = .next (if s.busy then (if s.dir = .left then s.dataLeft b else s.dataRight b) else s.discardWithSeq) := by
  unfold execData
  cases s.busy <;> cases s.dir <;> rfl

theorem execEndFrame_next (r : Byte) (s : State) :
    execEndFrame r s = .next (if s.busy then (if s.dir = .left then s.endLeft else s.endRight) else s.discardWithSeq) := by
  unfold execEndFrame
  cases s.busy <;> cases s.dir <;> rfl

theorem exec_is_next (i : Instr) (s : State) : ∃ t, exec i s = .next t := by
  cases i with
  | data b => exact ⟨_, execData_next b s⟩
  | startl r => unfold exec execStartl; cases s.busy <;> exact ⟨_, rfl⟩
  | startr p => unfold exec execStartr; cases s.busy <;> exact ⟨_, rfl⟩
  | endFrame r => exact ⟨_, execEndFrame_next r s⟩

/-! Runs (R12). -/

@[simp] theorem runCommands_nil (s : State) : runCommands [] s = .next s := rfl

theorem runCommands_cons_next {i : Instr} {s t : State} (h : exec i s = .next t) (cs : List Instr) :
    runCommands (i :: cs) s = runCommands cs t := by
  simp only [runCommands, h]

theorem runCommands_is_next (cs : List Instr) (s : State) : ∃ t, runCommands cs s = .next t := by
  induction cs generalizing s with
  | nil => exact ⟨s, rfl⟩
  | cons i cs ih =>
    obtain ⟨u, hu⟩ := exec_is_next i s
    obtain ⟨t, ht⟩ := ih u
    exact ⟨t, by rw [runCommands_cons_next hu, ht]⟩

theorem runCommands_append {cs : List Instr} {s t : State} (h : runCommands cs s = .next t) (ds : List Instr) :
    runCommands (cs ++ ds) s = runCommands ds t := by
  induction cs generalizing s with
  | nil => cases h; rfl
  | cons i cs ih =>
    obtain ⟨u, hu⟩ := exec_is_next i s
    rw [runCommands_cons_next hu] at h
    rw [List.cons_append, runCommands_cons_next hu, ih h]

/-! Commands touch neither the host's pins nor the tick, and do not depend on them (R31). -/

theorem exec_with_pins {i : Instr} {s t : State} (h : exec i s = .next t) (ps : List Pins) (n : Nat) :
    exec i { s with inputs := ps, ticks := n } = .next { t with inputs := ps, ticks := n } := by
  rcases s with ⟨_ | _, _ | _, _ | _, _, _ | _, _ | _, _, _, _, _, _⟩ <;> cases i <;> cases h <;> rfl

theorem runCommands_with_pins {cs : List Instr} {s t : State} (h : runCommands cs s = .next t) (ps : List Pins) (n : Nat) :
    runCommands cs { s with inputs := ps, ticks := n } = .next { t with inputs := ps, ticks := n } := by
  induction cs generalizing s with
  | nil => cases h; rfl
  | cons i cs ih =>
    obtain ⟨u, hu⟩ := exec_is_next i s
    rw [runCommands_cons_next hu] at h
    rw [runCommands_cons_next (exec_with_pins hu ps n)]
    exact ih h

/-! The clock edge (R127, R142). -/

@[simp] theorem State.pins_cons (s : State) (p : Pins) (ps : List Pins) : (s.withInputs (p :: ps)).pins = p := rfl

@[simp] theorem State.pins_present (s : State) (w : CmdWord) : (s.present w).pins = ⟨false, true, w, true⟩ := rfl

theorem edgeOf_cases (p : Pins) :
    (p.rst = true ∧ edgeOf p = .reset) ∨
    (p.rst = false ∧ p.inValid = true ∧ p.outReady = true ∧ edgeOf p = .command (decode p.inCmd)) ∨
    (p.rst = false ∧ (p.inValid = false ∨ p.outReady = false) ∧ edgeOf p = .hold) := by
  rcases p with ⟨_ | _, _ | _, w, _ | _⟩ <;> simp [edgeOf, accepted, inReady]

theorem step_on_reset {s : State} (h : edgeOf s.pins = .reset) : step s = .next (s.takeReset).clocked := by
  simp only [step, h]

theorem step_on_command {s : State} {i : Instr} (h : edgeOf s.pins = .command i) : step s = exec i s.clocked := by
  simp only [step, h]

theorem step_on_hold {s : State} (h : edgeOf s.pins = .hold) : step s = .next s.clocked := by
  simp only [step, h]

/-! The cycles of a run (R141). -/

theorem step_is_next (s : State) : ∃ t, step s = .next t := by
  rcases edgeOf_cases s.pins with ⟨_, h⟩ | ⟨_, _, _, h⟩ | ⟨_, _, h⟩
  · exact ⟨_, step_on_reset h⟩
  · obtain ⟨t, ht⟩ := exec_is_next (decode s.pins.inCmd) s.clocked
    exact ⟨t, by rw [step_on_command h, ht]⟩
  · exact ⟨_, step_on_hold h⟩

/-- A step uses up the pins of one cycle, whatever it does. -/
theorem step_inputs {s t : State} (h : step s = .next t) : t.inputs = s.inputs.tail := by
  rcases edgeOf_cases s.pins with ⟨_, he⟩ | ⟨_, _, _, he⟩ | ⟨_, _, he⟩
  · rw [step_on_reset he] at h; cases h; rfl
  · rw [step_on_command he] at h
    have hp := exec_with_pins h s.inputs.tail (s.ticks + 1)
    exact congrArg State.inputs (Host.Outcome.next.inj (h.symm.trans hp))
  · rw [step_on_hold he] at h; cases h; rfl

theorem run_after_next (M : Host.Core) {s t : M.State} (h : M.step s = .next t) (k : Nat) : M.run (k + 1) s = M.run k t := by
  simp only [Host.Core.run, h]

theorem run_cons_next {s t : State} (h : step s = .next t) (k : Nat) :
    Host.Core.run Sys2Proof.core (k + 1) s = Host.Core.run Sys2Proof.core k t := run_after_next Sys2Proof.core h k

theorem emittedOver_nil (s : State) : emittedOver [] s = [] := rfl

theorem emittedOver_cons_next {p : Pins} {ps : List Pins} {s t : State} (h : step (s.withInputs (p :: ps)) = .next t) :
    emittedOver (p :: ps) s = s.emittedIn p ++ emittedOver ps t := by
  simp only [emittedOver, h]

/-- After a step over a list of cycles, the rest of the list is what is to come. -/
theorem withInputs_after_step {p : Pins} {ps : List Pins} {s t : State} (h : step (s.withInputs (p :: ps)) = .next t) :
    t.withInputs ps = t := by
  have hi : t.inputs = ps := step_inputs h
  cases t
  cases hi
  rfl

/-! The loops of `rotate` (R68, R71): each byte is the cell's output. -/

theorem rotateLeftLoop_last (w : Bool) (b : Byte) : rotateLeftLoop w [b] = [(shl1c b w).1] := rfl

theorem rotateLeftLoop_cons (w : Bool) (b c : Byte) (rest : List Byte) :
    rotateLeftLoop w (b :: c :: rest) = (shl1c b (msb c)).1 :: rotateLeftLoop w (c :: rest) := rfl

theorem rotateRightLoop_cons (c : Bool) (b : Byte) (rest : List Byte) :
    rotateRightLoop c (b :: rest) = (shr1c b c).1 :: rotateRightLoop (lsb b) rest := rfl

@[simp] theorem rotateLeftLoop_length (w : Bool) (S : List Byte) : (rotateLeftLoop w S).length = S.length := by
  induction S with
  | nil => rfl
  | cons b rest ih => cases rest <;> simp_all [rotateLeftLoop]

@[simp] theorem rotateRightLoop_length (c : Bool) (S : List Byte) : (rotateRightLoop c S).length = S.length := by
  induction S generalizing c with
  | nil => rfl
  | cons b rest ih => simp [rotateRightLoop, ih]

/-! Text: a byte's two digits are read back (R60). -/

theorem hexValue_hexDigit : ∀ n : Fin 16, hexValue (hexDigit n) = some n.val := by decide

theorem byteOfText_byteText (b : Byte) : byteOfText (byteText b) = some b := by
  have hh := hexValue_hexDigit ⟨b.toNat / 16, by have := b.isLt; omega⟩
  have hl := hexValue_hexDigit ⟨b.toNat % 16, by omega⟩
  simp only at hh hl
  simp only [byteOfText, byteText, hh, hl, Nat.div_add_mod, BitVec.ofNat_toNat, BitVec.setWidth_eq]

/-! The frame-at-once machine. -/

theorem FrameMachine.run_nil (m : FrameMachine) : m.run [] = m := rfl

theorem FrameMachine.run_cons (m : FrameMachine) (i : Instr) (cs : List Instr) :
    m.run (i :: cs) = (m.after i).run cs := rfl

theorem FrameMachine.run_append (m : FrameMachine) (cs ds : List Instr) : m.run (cs ++ ds) = (m.run cs).run ds := by
  simp [FrameMachine.run]

end Sys2Proof.Machine
end

