-- ==== Sys2Proof/Laws/PerInstr.lean ====
section
/-! SUPPORT. The family `Opcode`: of every command, which bits of its word are fixed and where its operand stands (R51,
R53), one lemma per constructor. -/

namespace Sys2Proof.Laws.Opcode

/-- The opcode table's `match` value of a command under the mask `0x300` (R53). -/
def matchWord : Instr → CmdWord
  | .data _ => 0x000
  | .startl _ => 0x100
  | .startr _ => 0x200
  | .endFrame _ => 0x300

/-- The word of a command has the table's fixed bits, and its operand in `cmd[7:0]` (R51, R53). -/
def Statement (i : Instr) : Prop := encode i &&& 0x300#10 = matchWord i ∧ dataField (encode i) = i.operand

/-- The bits of a word put together from an `op` and a byte. -/
theorem append_bit (o : BitVec 2) (b : Byte) (k : Nat) :
    (o ++ b : CmdWord).getLsbD k = if k < 8 then b.getLsbD k else o.getLsbD (k - 8) := by
  show @BitVec.getLsbD (2 + 8) (o ++ b) k = _
  rw [BitVec.getLsbD_append]

/-- The operand field of a word put together from an `op` and a byte. -/
theorem dataField_of_append (o : BitVec 2) (b : Byte) : dataField (o ++ b) = b := by
  apply BitVec.eq_of_getLsbD_eq
  intro k hk
  simp only [dataField, BitVec.getLsbD_extractLsb', append_bit]
  simp [hk]

/-- The fixed bits of a word put together from an `op` and a byte. -/
theorem mask_of_append (o : BitVec 2) (b : Byte) : ((o ++ b : CmdWord) &&& 0x300#10) = o ++ (0#8) := by
  apply BitVec.eq_of_getLsbD_eq
  intro k hk
  rw [BitVec.getLsbD_and, append_bit, append_bit]
  by_cases h : k < 8
  · have h0 : (0x300#10).getLsbD k = false := by
      have hs : ∀ j : Fin 8, (0x300#10).getLsbD j = false := by decide
      exact hs ⟨k, h⟩
    simp [h, h0]
  · have h1 : (0x300#10).getLsbD k = true := by
      have hk2 : k = 8 ∨ k = 9 := by omega
      rcases hk2 with rfl | rfl <;> rfl
    simp [h, h1]

theorem data (b : Byte) : Statement (.data b) :=
  ⟨(mask_of_append 0 b).trans rfl, dataField_of_append _ _⟩

theorem startl (rsv : Byte) : Statement (.startl rsv) :=
  ⟨(mask_of_append 1 rsv).trans rfl, dataField_of_append _ _⟩

theorem startr (p : Byte) : Statement (.startr p) :=
  ⟨(mask_of_append 2 p).trans rfl, dataField_of_append _ _⟩

theorem endFrame (rsv : Byte) : Statement (.endFrame rsv) :=
  ⟨(mask_of_append 3 rsv).trans rfl, dataField_of_append _ _⟩

end Sys2Proof.Laws.Opcode
end

