-- ==== Sys2Proof/Tests/Slice0.lean ====
section
/-! SUPPORT. The model's own tests. Expected results are the test vectors of the spec (95_test_vectors.md: S, V, F, A, Z and P
numbers), the opcode map of R53 and the cell table. The witnesses at the end meet the hypotheses of the statements. -/

namespace Sys2Proof.Tests

open Sys2Proof.Machine Sys2Proof.Safety

/-- The eight elements in the order of the spec's test vectors, with nothing emitted and nothing to come. -/
def st (busy : Bool) (dir : Direction) (holdv : Bool) (hold : Byte) (wrap carry es ew : Bool) : State :=
  ⟨busy, dir, holdv, hold, wrap, carry, es, ew, [], [], 0⟩

/-! ## Decoding: words written out bit by bit from R51 and R53 -/

theorem test_decode_data : decode 0b0010110010#10 = .data 0b10110010 := by decide
theorem test_decode_startl : decode 0b0100000000#10 = .startl 0 := by decide
theorem test_decode_startl_reserved : decode 0b0111111111#10 = .startl 0xFF := by decide
theorem test_decode_startr : decode 0b1000000001#10 = .startr 1 := by decide
theorem test_decode_end : decode 0b1110100101#10 = .endFrame 0xA5 := by decide
theorem test_encode : encode (.startr 0x7D) = 0x27D#10 ∧ encode (.endFrame 0) = 0x300#10 := by decide
theorem test_table_words :
    decodeTableWord 16 0x000 = some (.data 0) ∧ decodeTableWord 16 0x100 = some (.startl 0) ∧
    decodeTableWord 16 0x200 = some (.startr 0) ∧ decodeTableWord 16 0x300 = some (.endFrame 0) := by decide

/-! ## Well-formedness: an ill-formed term for each check (R52, R64) -/

theorem test_reserved_bits_are_seen : Instr.isCanonical (.startl 0xFF) = false ∧ Instr.isCanonical (.endFrame 1) = false := by decide
theorem test_program_data_while_idle : programOk [.data 0xAA] = false := by decide
theorem test_program_end_while_idle : programOk [.endFrame 0] = false := by decide
theorem test_program_start_in_a_frame :
    programOk [.startl 0, .startr 0xFF, .endFrame 0] = false ∧ programOk [.startr 0, .startl 0, .endFrame 0] = false := by decide
theorem test_program_left_open : programOk [.startl 0, .data 1] = false ∧ programOk [.startr 0] = false := by decide
theorem test_program_wrong_prepass : programOk [.startr 0x00, .data 0x01, .endFrame 0] = false := by decide
theorem test_program_p7_is_well_formed :
    programOk [.startl 0xFF, .data 0xB2, .endFrame 0xA5, .startr 0xFE, .data 0xB2, .endFrame 0xFF] = true := by decide
theorem test_host_changes_its_offer :
    keepsOffer [⟨false, true, 0x100, false⟩, ⟨false, true, 0x300, true⟩] = false ∧
    keepsOffer [⟨false, true, 0x100, false⟩, ⟨false, true, 0x100, true⟩] = true := by decide

/-! ## The cell and the function (2.1, 2.2) -/

theorem test_cell_b2 : shl1c 0xB2 true = (0x65, true) ∧ shr1c 0xB2 false = (0x59, false) := by decide
theorem test_cell_a0_is_one_bit : shl1c 0x20 false = (0x40, false) ∧ shr1c 0x80 true = (0xC0, false) := by decide
theorem test_rotate_left_v17 : rotate .left [0xA5, 0x5A, 0xC3, 0x3C, 0x0F] = [0x4A, 0xB5, 0x86, 0x78, 0x1F] := by decide
theorem test_rotate_right_v17 : rotate .right [0xA5, 0x5A, 0xC3, 0x3C, 0x0F] = [0xD2, 0xAD, 0x61, 0x9E, 0x07] := by decide
theorem test_rotate_v19 : rotate .left [0x00, 0x20] = [0x00, 0x40] ∧ rotate .right [0x00, 0x20] = [0x00, 0x10] := by decide
theorem test_rotate_times_v20 : rotateTimes .left 15 [0x80, 0x01] = [0xC0, 0x00] := by decide

/-! ## The commands, one step each (2.3, 2.4) -/

/-- F2: `DIR` is rewritten, scratch is untouched. -/
theorem test_startl_f2 :
    exec (.startl 0) (st false .right false 0x55 true false false false) =
      .next (st true .left false 0x55 true false false false) := rfl

/-- F3: the open frame is undisturbed. -/
theorem test_startl_f3 :
    exec (.startl 0) (st true .left true 0xB2 true false false false) =
      .next (st true .left true 0xB2 true false true false) := rfl

/-- F6: of the operand 0xFE only bit 0 is used. -/
theorem test_startr_f6 :
    exec (.startr 0xFE) (st false .left false 0 true true false false) =
      .next (st true .right false 0 false false false false) := rfl

/-- F7: `WRAP` and `CARRY` of the open frame are not overwritten. -/
theorem test_startr_f7 :
    exec (.startr 0x00) (st true .right false 0 true false false false) =
      .next (st true .right false 0 true false true false) := rfl

/-- F11: the held byte takes the wrapBit; reserved bits do not matter. -/
theorem test_end_f11 :
    exec (.endFrame 0xA5) (st true .left true 0x01 true false false false) =
      .next ((st false .left false 0x01 true false false false).emit 0x03) := rfl

/-- F16: the pre-pass check. -/
theorem test_end_f16 :
    exec (.endFrame 0) (st true .right false 0 true false false false) =
      .next (st false .right false 0 true false false true) := rfl

/-- A4: a later byte of a left frame; `WRAP` is not rewritten. -/
theorem test_data_a4 :
    exec (.data 0x80) (st true .left true 0x01 false false false false) =
      .next ((st true .left true 0x80 false false false false).emit 0x03) := rfl

/-- A8: a byte of a right frame. -/
theorem test_data_a8 :
    exec (.data 0x80) (st true .right false 0 true true false false) =
      .next ((st true .right false 0 true false false false).emit 0xC0) := rfl

/-! ## Views and edges (2.5, 2.6) -/

theorem test_status_0e : (st false .right false 0 false false true true).status = 0x0E := by decide
theorem test_status_05 : (st true .left false 0 false false true false).status = 0x05 := by decide

/-- Z3: reset wins over a command in the same cycle. -/
theorem test_reset_wins_z3 :
    step ((st true .left true 0xB2 true false true false).withInputs [⟨true, true, 0x300, true⟩]) =
      .next (((st true .left true 0xB2 true false true false).withInputs [⟨true, true, 0x300, true⟩]).takeReset).clocked := rfl

/-- The word of P1's first command runs as the first instruction after reset. -/
theorem test_first_instruction_after_reset :
    step (State.reset.withFetchWord 16 0x100) =
      .next { st true .left false 0 false false false false with ticks := 1 } := rfl

/-- With the sink not ready the command waits (R142). -/
theorem test_stalled_sink_holds_the_command :
    step (State.reset.withInputs [⟨false, true, 0x100, false⟩]) = .next { State.reset with ticks := 1 } := rfl

/-- An offer the sink never lets in ends quiescent with its pins used up, and is no complete run of its command (R141). -/
theorem test_offered_is_not_complete :
    (∃ t, Host.Core.run Sys2Proof.core 1 (State.reset.withInputs [⟨false, true, 0x100, false⟩]) = .next t ∧
      InputsDone t ∧ Quiescent t) ∧
    ∀ t, ¬ RunComplete [.startl 0] [⟨false, true, 0x100, false⟩] State.reset t :=
  ⟨⟨_, rfl, rfl, rfl⟩, fun _ h => absurd h.2.1 (by decide)⟩

/-- P1 with a stalled and an idle cycle is a complete run of its three commands, and its byte is taken. -/
theorem test_p1_is_complete :
    ∃ t, RunComplete [.startl 0, .data 0xB2, .endFrame 0]
      [⟨false, true, 0x100, true⟩, ⟨false, true, 0x0B2, false⟩, ⟨false, true, 0x0B2, true⟩, ⟨false, false, 0, true⟩,
        ⟨false, true, 0x300, true⟩] State.reset t ∧ t.output = [0x65] ∧ Quiescent t :=
  ⟨_, ⟨rfl, by decide, by decide⟩, by decide, rfl⟩

/-! ## Text (R60 to R63), with the lines of P1 and P7 -/

theorem test_disassemble_data : disassemble (.data 0xB2) = ['D', 'A', 'T', 'A', ' ', '0', 'x', 'B', '2'] := by decide
theorem test_assemble_startr :
    assembleLine ['S', 'T', 'A', 'R', 'T', 'R', ' ', '0', 'x', 'F', 'E', ' ', ';', 'x'] = some [.startr 0xFE] := by decide
theorem test_assemble_rotl :
    assembleLine ['R', 'O', 'T', 'L', ' ', '[', '0', 'x', 'B', '2', ']'] = some [.startl 0, .data 0xB2, .endFrame 0] := by decide
theorem test_direction_token_is_case_sensitive : directionOfToken ['L', 'e', 'f', 't'] = none := by decide

/-! ## Witnesses: states and operands that meet the hypotheses of the statements -/

/-- Idle after a right frame (F2). -/
def idle : State := st false .right false 0x55 true false false false
/-- An empty left frame (F9). -/
def leftEmpty : State := st true .left false 0 false false false false
/-- A left frame that holds a byte (F10). -/
def leftHeld : State := st true .left true 0xB2 true false false false
/-- A right frame whose check passes (F14). -/
def rightGood : State := st true .right false 0 true true false false
/-- A right frame whose check fails (F16). -/
def rightBad : State := st true .right false 0 true false false false

theorem witness_OpcodeMapSelectsByOp :
    idle.busy = false ∧ (0x1FF#10 &&& 0x300#10 = 0x100#10) ∧ (0x200#10 &&& 0x300#10 = 0x200#10) ∧
    (0x0FF#10 &&& 0x300#10 = 0x000#10) ∧ (0x300#10 &&& 0x300#10 = 0x300#10) := by decide

theorem witness_ReservedBitsAreIgnored :
    ((0x100#10).extractLsb' 8 2 = (0x1FF#10).extractLsb' 8 2 ∧ (0x100#10).extractLsb' 8 2 = 0b01#2) ∧
    ((0x300#10).extractLsb' 8 2 = (0x3FF#10).extractLsb' 8 2 ∧ (0x300#10).extractLsb' 8 2 = 0b11#2) ∧
    ((0x200#10).extractLsb' 8 2 = (0x2FE#10).extractLsb' 8 2 ∧ (0x200#10).extractLsb' 8 2 = 0b10#2 ∧
      (0x200#10).getLsbD 0 = (0x2FE#10).getLsbD 0) := by decide

theorem witness_LeftRotationMovesStreamBitsDown :
    0 < 8 * [0x80#8, 0x01#8].length ∧ 15 < 8 * [0x80#8, 0x01#8].length ∧
    sbit (rotate .left [0x80, 0x01]) 15 = true ∧ sbit [0x80, 0x01] 0 = true := by decide

theorem witness_RightRotationMovesStreamBitsUp :
    0 < 8 * [0x80#8, 0x01#8].length ∧ 15 < 8 * [0x80#8, 0x01#8].length ∧
    sbit (rotate .right [0x80, 0x01]) 0 = true ∧ sbit [0x80, 0x01] 15 = true := by decide

theorem witness_RotatedBytesFollowTheByteRules :
    0 < [0x80#8, 0x01#8].length ∧ 1 < [0x80#8, 0x01#8].length ∧
    (rotate .left [0x80, 0x01])[1]? = some 0x03 ∧ (rotate .right [0x80, 0x01])[0]? = some 0xC0 := by decide

theorem witness_RotationIsARingOfCells : 0 < [0xB2#8].length ∧ (rotate .left [0xB2])[0]? = some 0x65 := by decide

theorem witness_RotationHasPeriodEightTimesLength :
    [0x80#8] ≠ [] ∧ 0 < 8 * [0x80#8].length ∧ 7 < 8 * [0x80#8].length ∧
    1 % (8 * [0x80#8].length) = 9 % (8 * [0x80#8].length) := by decide

theorem witness_StartlOpensALeftFrame : idle.busy = false ∧ leftHeld.busy = true := by decide
theorem witness_StartrOpensARightFrameWithItsWrapBit : idle.busy = false ∧ rightGood.busy = true := by decide

theorem witness_EndClosesTheFrame :
    idle.busy = false ∧
    (leftEmpty.busy = true ∧ leftEmpty.dir = .left ∧ leftEmpty.holdv = false) ∧
    (leftHeld.busy = true ∧ leftHeld.dir = .left ∧ leftHeld.holdv = true) ∧
    (rightGood.busy = true ∧ rightGood.dir = .right ∧ rightGood.carry = rightGood.wrap) ∧
    (rightBad.busy = true ∧ rightBad.dir = .right ∧ rightBad.carry ≠ rightBad.wrap) := by decide

theorem witness_DataSuppliesTheNextByte :
    idle.busy = false ∧
    (leftEmpty.busy = true ∧ leftEmpty.dir = .left ∧ leftEmpty.holdv = false) ∧
    (leftHeld.busy = true ∧ leftHeld.dir = .left ∧ leftHeld.holdv = true) ∧
    (rightGood.busy = true ∧ rightGood.dir = .right) := by decide

theorem witness_StartCommandsLeaveTheRest :
    (∃ t, exec (.startl 0) idle = .next t) ∧ (∃ t, exec (.startr 1) idle = .next t) ∧
    (∃ t, exec (.startr 1) leftHeld = .next t) ∧ idle.busy = false ∧ leftHeld.busy = true :=
  ⟨⟨_, rfl⟩, ⟨_, rfl⟩, ⟨_, rfl⟩, rfl, rfl⟩

theorem witness_EndLeavesTheRest :
    (∃ t, exec (.endFrame 0) idle = .next t) ∧ (∃ t, exec (.endFrame 0) leftHeld = .next t) ∧
    (∃ t, exec (.endFrame 0) rightBad = .next t) ∧ rightBad.dir = .right ∧ leftHeld.busy = true ∧ idle.busy = false :=
  ⟨⟨_, rfl⟩, ⟨_, rfl⟩, ⟨_, rfl⟩, rfl, rfl, rfl⟩

theorem witness_DataLeavesTheRest :
    (∃ t, exec (.data 0xAA) idle = .next t) ∧ (∃ t, exec (.data 0xAA) leftEmpty = .next t) ∧
    (∃ t, exec (.data 0xAA) leftHeld = .next t) ∧ (∃ t, exec (.data 0xAA) rightGood = .next t) :=
  ⟨⟨_, rfl⟩, ⟨_, rfl⟩, ⟨_, rfl⟩, ⟨_, rfl⟩⟩

/-- Every element of R15 is written by some command. -/
theorem witness_OnlyTheNamedCommandsWriteEachElement :
    (∃ t, exec (.startl 0) idle = .next t ∧ t.busy ≠ idle.busy ∧ t.dir ≠ idle.dir) ∧
    (∃ t, exec (.startr 0) idle = .next t ∧ t.wrap ≠ idle.wrap) ∧
    (∃ t, exec (.data 0x80) leftEmpty = .next t ∧ t.holdv ≠ leftEmpty.holdv ∧ t.hold ≠ leftEmpty.hold ∧ t.wrap ≠ leftEmpty.wrap) ∧
    (∃ t, exec (.data 0x00) rightGood = .next t ∧ t.carry ≠ rightGood.carry ∧ t.output ≠ rightGood.output) ∧
    (∃ t, exec (.data 0x00) idle = .next t ∧ t.errSeq ≠ idle.errSeq) ∧
    (∃ t, exec (.endFrame 0) rightBad = .next t ∧ t.errWrap ≠ rightBad.errWrap) :=
  ⟨⟨_, rfl, by decide⟩, ⟨_, rfl, by decide⟩, ⟨_, rfl, by decide⟩, ⟨_, rfl, by decide⟩, ⟨_, rfl, by decide⟩, ⟨_, rfl, by decide⟩⟩

theorem witness_PhaseTableHolds :
    idle.phase = .idle ∧ leftEmpty.phase = .leftEmpty ∧ leftHeld.phase = .leftHeld ∧ rightBad.phase = .right ∧
    Phase.wrongFor .idle (.data 0) = true ∧ Phase.wrongFor .right (.data 0) = false := by decide

theorem witness_FaultsHaveExactlyTheirCauses :
    ∃ t, exec (.data 0) idle = .next t ∧ t.errSeq = true ∧ idle.errSeq = false := ⟨_, rfl, rfl, rfl⟩

theorem witness_AStepRaisesAtMostOneFault :
    (rightBad.errSeq = false ∧ rightBad.errWrap = false ∧ ∃ t, exec (.endFrame 0) rightBad = .next t) ∧
    (rightBad.withInputs [⟨true, true, 0x300, true⟩]).inputs = [⟨true, true, 0x300, true⟩] := ⟨⟨rfl, rfl, _, rfl⟩, rfl⟩

theorem witness_StrayCommandOnlyRecordsSeq :
    (leftHeld.busy = true ∧ ∃ r, Instr.startr 0xFF = .startl r ∨ Instr.startr 0xFF = .startr r) ∧
    (idle.busy = false ∧ ∃ r, Instr.endFrame 0 = .data r ∨ Instr.endFrame 0 = .endFrame r) :=
  ⟨⟨rfl, 0xFF, .inr rfl⟩, ⟨rfl, 0, .inr rfl⟩⟩

theorem witness_NoCommandReadsTheFlags :
    ∃ t, runCommands [.data 0x01, .endFrame 0] leftHeld = .next t := ⟨_, rfl⟩

/-- A recorded fault and a reset edge: the only way down for `err`. -/
theorem witness_ErrLineFallsOnlyAtReset :
    let s := (st false .right false 0 true false false true).withInputs [⟨true, false, 0, false⟩]
    ∃ t, step s = .next t ∧ s.err = true ∧ t.err = false := ⟨_, rfl, rfl, rfl⟩

theorem witness_EveryStepKeepsTheControlInvariant :
    ControlInv leftHeld ∧ leftHeld.holdv = true ∧ ∃ t, step (leftHeld.present 0x300) = .next t :=
  ⟨fun _ => ⟨rfl, rfl⟩, rfl, _, rfl⟩

theorem witness_FlagsAreStickyUntilReset :
    let s := (st false .right false 0 true false true true).present 0x100
    ∃ t u, step s = .next t ∧ runCommands [.startl 0] s = .next u ∧ s.errSeq = true ∧ s.errWrap = true ∧
      s.inputs = [⟨false, true, 0x100, true⟩] := ⟨_, _, rfl, rfl, rfl, rfl, rfl⟩

/-- Each case of the statement about reachable states is reached. -/
theorem witness_ReachableStatesHoldTheOpenFrame :
    (FrameMachine.start.run []).frame = .none ∧
    (FrameMachine.start.run [.startl 0, .data 0x80, .data 0x01]).frame = .left [0x80, 0x01] ∧
    (FrameMachine.start.run [.startr 1, .data 0x80]).frame = .right 1 [0x80] := by decide

theorem witness_LeftFramesComputeRotateLeft : idle.busy = false ∧ rotate .left [0xDE, 0xAD, 0xBE] = [0xBD, 0x5B, 0x7D] := by decide
theorem witness_RightFramesComputeRotateRight : idle.busy = false ∧ rotate .right [0xBD, 0x5B, 0x7D] = [0xDE, 0xAD, 0xBE] := by decide

theorem witness_OpenLeftFrameHoldsItsLastByte :
    idle.busy = false ∧ [0x80#8] ≠ [] ∧ [0x80#8, 0x01#8] ≠ [] ∧ 0 + 1 < [0x80#8, 0x01#8].length := by decide

theorem witness_OpenRightFrameCarriesItsLastBit :
    idle.busy = false ∧ 0 < [0x80#8, 0x01#8].length ∧ 1 < [0x80#8, 0x01#8].length := by decide

theorem witness_FrameEmitsOneBytePerData :
    idle.busy = false ∧ (∀ i ∈ [Instr.data 0x7F, .startr 0xFF, .startl 0x80], ∀ q, i ≠ .endFrame q) := by
  refine ⟨rfl, ?_⟩
  intro i hi q h
  subst h
  simp at hi

theorem witness_WrongPrePassInvertsOneBitAndRecordsWrap :
    idle.busy = false ∧ [0x01#8] ≠ [] ∧ (0x00#8).getLsbD 0 ≠ ([0x01#8].getLastD 0).getLsbD 0 := by decide

theorem witness_LeftThenRightFrameGivesTheBytesBack : idle.busy = false := rfl

theorem witness_DirectionIsFixedInsideAFrame :
    (∃ t, exec (.startl 0) idle = .next t ∧ t.dir ≠ idle.dir) ∧ leftHeld.busy = true ∧
    (∀ i ∈ [Instr.data 0x7F], ∀ r, i ≠ .endFrame r) := by
  refine ⟨⟨_, rfl, by decide⟩, rfl, ?_⟩
  intro i hi r h
  subst h
  simp at hi

theorem witness_WellFormedExactlyWhenCleanAndIdle : idle.busy = false ∧ NoFault idle := ⟨rfl, rfl, rfl⟩

/-- Both sides of the equivalence occur: P4 is well formed, P6's first command is not. -/
theorem witness_WellFormedProgram_both_ways :
    WellFormedProgram [.startl 0, .endFrame 0, .startr 0, .endFrame 0] ∧ ¬ WellFormedProgram [.data 0xAA] := by
  constructor
  · exact .left 0 0 [] _ (.right 0 0 [] _ (by simp) .nil)
  · intro h
    cases h

/-- Two states with different scratch that the host cannot tell apart. -/
theorem witness_ScratchStaysInvisibleAtEveryEdge :
    SameToTheHost (State.resetWith 0x00 false false) (State.resetWith 0xFF true true) ∧
    (State.resetWith 0x00 false false).hold ≠ (State.resetWith 0xFF true true).hold := by
  refine ⟨⟨rfl, rfl, rfl, rfl, rfl, rfl, rfl, ?_, ?_⟩, by decide⟩ <;> simp

theorem witness_FramesForgetEarlierFrames : idle.busy = false ∧ State.reset.busy = false ∧ idle.hold ≠ State.reset.hold := by decide

theorem witness_StepRunsTheDecodedCommand :
    (leftHeld.present 0x3A5).inputs = [⟨false, true, 0x3A5, true⟩] ∧
    step (leftHeld.present 0x3A5) = exec (.endFrame 0xA5) { leftHeld with ticks := 1 } ∧
    (∃ t, step (leftHeld.present 0x3A5) = .next t) := ⟨rfl, rfl, _, rfl⟩

theorem witness_ResetEdgeGivesTheResetState :
    (leftHeld.withInputs [⟨true, true, 0x300, true⟩]).inputs = [⟨true, true, 0x300, true⟩] ∧
    (⟨true, true, 0x300, true⟩ : Pins).rst = true := ⟨rfl, rfl⟩

theorem witness_NothingHappensWithoutACommand :
    (leftHeld.withInputs [⟨false, false, 0x300, true⟩]).pins.inValid = false ∧
    (leftHeld.withInputs [⟨false, true, 0x300, false⟩]).pins.outReady = false ∧ leftHeld.inputs = [] := ⟨rfl, rfl, rfl⟩

/-- A cycle that moves a byte, and one whose byte waits for the sink. -/
theorem witness_HandshakeMovesTheEmittedByte :
    (leftHeld.present 0x300).pins.rst = false ∧ leftHeld.outValid ⟨false, true, 0x300, true⟩ = true ∧
    leftHeld.outData ⟨false, true, 0x300, true⟩ = 0x65 ∧ leftHeld.transferred ⟨false, true, 0x300, false⟩ = false := by decide

theorem witness_EmissionIsDecidedByStateAndOpcode :
    rightGood.produces (.data 0) = true ∧ leftHeld.produces (.data 0) = true ∧ leftHeld.produces (.endFrame 0) = true ∧
    leftEmpty.produces (.data 0) = false ∧ (0x001#10).extractLsb' 8 2 = (0x0FF#10).extractLsb' 8 2 := by decide

/-- Two patterns of `in_valid` and `out_ready` that accept the same two commands. -/
theorem witness_OnlyTheAcceptedCommandsMatter :
    let ps : List Pins := [⟨false, true, 0x100, true⟩, ⟨false, true, 0x0B2, true⟩]
    let qs : List Pins := [⟨false, true, 0x100, false⟩, ⟨false, true, 0x100, true⟩, ⟨false, false, 0, true⟩, ⟨false, true, 0x0B2, true⟩]
    (∀ p ∈ ps, p.rst = false) ∧ (∀ q ∈ qs, q.rst = false) ∧ acceptedCommands ps = acceptedCommands qs := by decide

theorem witness_BlockNeverHangs : (⟨false, false, 0, true⟩ : Pins).rst = false ∧ (⟨false, false, 0, true⟩ : Pins).outReady = true := ⟨rfl, rfl⟩

theorem witness_RunIsCompleteWhenAllCommandsAreAccepted :
    ((leftHeld.present 0x3A5).inputs = [⟨false, true, 0x3A5, true⟩] ∧
      (leftHeld.present 0x3A5).completesFrame ⟨false, true, 0x3A5, true⟩ = true) ∧
    (ControlInv idle ∧ Quiescent idle) ∧
    (∀ p ∈ [(⟨false, false, 0x300, true⟩ : Pins)], p.rst = false ∧ p.inValid = false) ∧ idle.busy = false :=
  ⟨⟨rfl, by decide⟩, ⟨fun h => absurd h (by decide), rfl⟩, by decide, rfl⟩

theorem witness_DirectionTokensSelectTheFrame :
    ['L', 'E', 'F', 'T'] ≠ ['l', 'e', 'f', 't'] ∧ ['L', 'E', 'F', 'T'] ≠ ['r', 'i', 'g', 'h', 't'] := by decide

end Sys2Proof.Tests
end

section
/-! PROOFS. Commands as a total function on states: the equation of each command, the run as a fold, what no command does to
the sticky flags. -/

namespace Sys2Proof.Machine

/-- The state a command leaves: `exec` always answers one (`exec_eq_next`). -/
def State.afterCommand (s : State) (i : Instr) : State :=
  match exec i s with
  | .next t => t
  | .fault _ => s
  | .refused _ => s

/-- The state a command sequence leaves (`runCommands_eq_next`). -/
def State.afterCommands (s : State) (cs : List Instr) : State := cs.foldl State.afterCommand s

theorem afterCommand_of_exec {i : Instr} {s t : State} (h : exec i s = .next t) : s.afterCommand i = t := by
  simp only [State.afterCommand, h]

theorem exec_eq_next (i : Instr) (s : State) : exec i s = .next (s.afterCommand i) := by
  obtain ⟨t, ht⟩ := exec_is_next i s
  rw [ht, afterCommand_of_exec ht]

@[simp] theorem State.afterCommands_nil (s : State) : s.afterCommands [] = s := rfl

@[simp] theorem State.afterCommands_cons (s : State) (i : Instr) (cs : List Instr) :
    s.afterCommands (i :: cs) = (s.afterCommand i).afterCommands cs := rfl

@[simp] theorem State.afterCommands_append (s : State) (cs ds : List Instr) :
    s.afterCommands (cs ++ ds) = (s.afterCommands cs).afterCommands ds := List.foldl_append

theorem runCommands_eq_next (cs : List Instr) (s : State) : runCommands cs s = .next (s.afterCommands cs) := by
  induction cs generalizing s with
  | nil => rfl
  | cons i cs ih => rw [runCommands_cons_next (exec_eq_next i s), ih, State.afterCommands_cons]

/-! The equation of each command (R92, R93, R94, R98). -/

theorem execStartl_next (r : Byte) (s : State) :
    execStartl r s = .next (if s.busy then s.discardWithSeq else s.openFrame .left) := by
  unfold execStartl
  cases s.busy <;> rfl

theorem execStartr_next (p : Byte) (s : State) :
    execStartr p s = .next (if s.busy then s.discardWithSeq else (s.openFrame .right).loadWrap (wrapBitOf p)) := by
  unfold execStartr
  cases s.busy <;> rfl

@[simp] theorem State.afterCommand_data (s : State) (b : Byte) :
    s.afterCommand (.data b) =
      if s.busy then (if s.dir = .left then s.dataLeft b else s.dataRight b) else s.discardWithSeq :=
  afterCommand_of_exec (execData_next b s)

@[simp] theorem State.afterCommand_startl (s : State) (r : Byte) :
    s.afterCommand (.startl r) = if s.busy then s.discardWithSeq else s.openFrame .left :=
  afterCommand_of_exec (execStartl_next r s)

@[simp] theorem State.afterCommand_startr (s : State) (p : Byte) :
    s.afterCommand (.startr p) =
      if s.busy then s.discardWithSeq else (s.openFrame .right).loadWrap (wrapBitOf p) :=
  afterCommand_of_exec (execStartr_next p s)

@[simp] theorem State.afterCommand_endFrame (s : State) (r : Byte) :
    s.afterCommand (.endFrame r) =
      if s.busy then (if s.dir = .left then s.endLeft else s.endRight) else s.discardWithSeq :=
  afterCommand_of_exec (execEndFrame_next r s)

/-! DATA and END inside a frame, by what the frame holds. -/

theorem State.dataLeft_of_empty {s : State} (h : s.holdv = false) (b : Byte) : s.dataLeft b = s.captureFirst b := by
  simp [State.dataLeft, h]

theorem State.dataLeft_of_held {s : State} (h : s.holdv = true) (b : Byte) :
    s.dataLeft b = (s.emit (shl1c s.hold (msb b)).1).holdByte b := by
  simp [State.dataLeft, h]

theorem State.dataRight_eq (s : State) (b : Byte) :
    s.dataRight b = (s.emit (shr1c b s.carry).1).setCarry (lsb b) := rfl

@[simp] theorem State.dataLeft_errSeq (s : State) (b : Byte) : (s.dataLeft b).errSeq = s.errSeq := by
  unfold State.dataLeft; split <;> rfl

@[simp] theorem State.dataLeft_errWrap (s : State) (b : Byte) : (s.dataLeft b).errWrap = s.errWrap := by
  unfold State.dataLeft; split <;> rfl

@[simp] theorem State.endLeft_busy (s : State) : s.endLeft.busy = false := by
  unfold State.endLeft; split <;> rfl

@[simp] theorem State.endLeft_dir (s : State) : s.endLeft.dir = s.dir := by
  unfold State.endLeft; split <;> rfl

@[simp] theorem State.endLeft_holdv (s : State) : s.endLeft.holdv = false := by
  unfold State.endLeft; split <;> rfl

@[simp] theorem State.endLeft_errSeq (s : State) : s.endLeft.errSeq = s.errSeq := by
  unfold State.endLeft; split <;> rfl

@[simp] theorem State.endLeft_errWrap (s : State) : s.endLeft.errWrap = s.errWrap := by
  unfold State.endLeft; split <;> rfl

@[simp] theorem State.endRight_busy (s : State) : s.endRight.busy = false := by
  unfold State.endRight; split <;> rfl

@[simp] theorem State.endRight_dir (s : State) : s.endRight.dir = s.dir := by
  unfold State.endRight; split <;> rfl

@[simp] theorem State.endRight_holdv (s : State) : s.endRight.holdv = s.holdv := by
  unfold State.endRight; split <;> rfl

@[simp] theorem State.endRight_errSeq (s : State) : s.endRight.errSeq = s.errSeq := by
  unfold State.endRight; split <;> rfl

/-- The pre-pass check (R109). -/
@[simp] theorem State.endRight_errWrap (s : State) : s.endRight.errWrap = (s.errWrap || (s.carry != s.wrap)) := by
  unfold State.endRight; split <;> simp_all

/-! The flags are sticky (R22). -/

/-- Whatever flag `s` has set, `t` has set. -/
def FlagsKept (s t : State) : Prop :=
  (s.errSeq = true → t.errSeq = true) ∧ (s.errWrap = true → t.errWrap = true)

theorem FlagsKept.of_eq {s t : State} (hs : t.errSeq = s.errSeq) (hw : t.errWrap = s.errWrap) : FlagsKept s t := by
  simp [FlagsKept, hs, hw]

theorem FlagsKept.err {s t : State} (h : FlagsKept s t) (hs : s.err = true) : t.err = true := by
  obtain ⟨hSeq, hWrap⟩ := h
  simp only [State.err, Bool.or_eq_true] at hs ⊢
  exact hs.imp hSeq hWrap

theorem discardWithSeq_keeps_flags (s : State) : FlagsKept s s.discardWithSeq := ⟨fun _ => rfl, id⟩

theorem endRight_keeps_flags (s : State) : FlagsKept s s.endRight := by
  simp +contextual [FlagsKept]

/-- R22, R26 (e): no command clears a flag. -/
theorem afterCommand_keeps_flags (s : State) (i : Instr) : FlagsKept s (s.afterCommand i) := by
  cases i with
  | data b =>
    rw [State.afterCommand_data]
    split_ifs
    · exact .of_eq (s.dataLeft_errSeq b) (s.dataLeft_errWrap b)
    · exact .of_eq rfl rfl
    · exact discardWithSeq_keeps_flags s
  | startl r =>
    rw [State.afterCommand_startl]
    split_ifs
    · exact discardWithSeq_keeps_flags s
    · exact .of_eq rfl rfl
  | startr p =>
    rw [State.afterCommand_startr]
    split_ifs
    · exact discardWithSeq_keeps_flags s
    · exact .of_eq rfl rfl
  | endFrame r =>
    rw [State.afterCommand_endFrame]
    split_ifs
    · exact .of_eq s.endLeft_errSeq s.endLeft_errWrap
    · exact endRight_keeps_flags s
    · exact discardWithSeq_keeps_flags s

theorem exec_keeps_flags {i : Instr} {s t : State} (h : exec i s = .next t) : FlagsKept s t :=
  afterCommand_of_exec h ▸ afterCommand_keeps_flags s i

end Sys2Proof.Machine
end

section
/-! PROOFS. The open frame and the registers (R26). -/

namespace Sys2Proof.Machine

/-- What R26 says of the registers while the frame `f` is open: (a), (b) without a frame, (c) in a left one, (d) in a right
one. -/
def FrameHeld (f : OpenFrame) (s : State) : Prop :=
  match f with
  | .none => s.busy = false ∧ s.holdv = false
  | .left bs =>
    s.busy = true ∧ s.dir = .left ∧ (s.holdv = true ↔ bs ≠ []) ∧
    (∀ b, bs.getLast? = some b → s.hold = b) ∧ (∀ b, bs.head? = some b → s.wrap = b.getLsbD 7)
  | .right p bs =>
    s.busy = true ∧ s.dir = .right ∧ s.holdv = false ∧ s.wrap = p.getLsbD 0 ∧
    s.carry = (bs.getLastD p).getLsbD 0

/-- A discarded command leaves the open frame as it was (R108). -/
theorem FrameHeld.discardWithSeq {f : OpenFrame} {s : State} (h : FrameHeld f s) : FrameHeld f s.discardWithSeq := by
  cases f <;> exact h

/-- DATA in a left frame: the byte is held, and `WRAP` is written by the first one only (R98). -/
theorem FrameHeld.dataLeft {bs : List Byte} {s : State} (h : FrameHeld (.left bs) s) (b : Byte) :
    FrameHeld (.left (bs ++ [b])) (s.dataLeft b) := by
  obtain ⟨hbusy, hdir, hheld, hhold, hwrap⟩ := h
  cases bs with
  | nil =>
    have empty : s.holdv = false := by simpa using hheld
    simp [FrameHeld, State.dataLeft_of_empty empty, hbusy, hdir, msb]
  | cons first rest =>
    have held : s.holdv = true := by simpa using hheld
    have wrapped : s.wrap = first.getLsbD 7 := hwrap first rfl
    simp [FrameHeld, State.dataLeft_of_held held, hbusy, hdir, held, wrapped, List.getLast?_cons]

/-- DATA in a right frame: its LSB is carried on (R98). -/
theorem FrameHeld.dataRight {p : Byte} {bs : List Byte} {s : State} (h : FrameHeld (.right p bs) s) (b : Byte) :
    FrameHeld (.right p (bs ++ [b])) (s.dataRight b) := by
  obtain ⟨hbusy, hdir, hheld, hwrap, -⟩ := h
  simp [FrameHeld, State.dataRight_eq, hbusy, hdir, hheld, hwrap, lsb]

/-- R26 is kept by every command: the block and the frame-at-once machine stay on the same open frame. -/
theorem FrameHeld.afterCommand {m : FrameMachine} {s : State} (h : FrameHeld m.frame s) (i : Instr) :
    FrameHeld (m.after i).frame (s.afterCommand i) := by
  obtain ⟨f, closed, es, ew⟩ := m
  cases f with
  | none =>
    have ⟨idle, empty⟩ := h
    cases i with
    | data b => simpa [FrameMachine.after, idle] using h.discardWithSeq
    | startl r => simp [FrameMachine.after, FrameHeld, idle]
    | startr p => simp [FrameMachine.after, FrameHeld, idle, wrapBitOf, lsb]
    | endFrame r => simpa [FrameMachine.after, idle] using h.discardWithSeq
  | left bs =>
    have ⟨busy, dir, _⟩ := h
    cases i with
    | data b => simpa [FrameMachine.after, busy, dir] using h.dataLeft b
    | startl r => simpa [FrameMachine.after, busy] using h.discardWithSeq
    | startr p => simpa [FrameMachine.after, busy] using h.discardWithSeq
    | endFrame r => simp [FrameMachine.after, FrameHeld, busy, dir]
  | right p bs =>
    have ⟨busy, dir, empty, _⟩ := h
    cases i with
    | data b => simpa [FrameMachine.after, busy, dir] using h.dataRight b
    | startl r => simpa [FrameMachine.after, busy] using h.discardWithSeq
    | startr p' => simpa [FrameMachine.after, busy] using h.discardWithSeq
    | endFrame r => simp [FrameMachine.after, FrameHeld, busy, dir, empty]

theorem FrameHeld.afterCommands {m : FrameMachine} {s : State} (h : FrameHeld m.frame s) (cs : List Instr) :
    FrameHeld (m.run cs).frame (s.afterCommands cs) := by
  induction cs generalizing m s with
  | nil => exact h
  | cons i cs ih => exact ih (h.afterCommand i)

theorem frameHeld_resetWith (h : Byte) (w c : Bool) :
    FrameHeld FrameMachine.start.frame (State.resetWith h w c) := ⟨rfl, rfl⟩

/-- Settles O35: the registers hold the open frame at reset, every command keeps that, and no command clears a flag. -/
theorem reachableStatesHoldTheOpenFrame : Obligations.ReachableStatesHoldTheOpenFrame := by
  intro cs h w c
  exact ⟨_, runCommands_eq_next cs _, (frameHeld_resetWith h w c).afterCommands cs, fun _ _ => exec_keeps_flags⟩

end Sys2Proof.Machine
end

section
/-! PROOFS. The status word (R24, R58). -/

namespace Sys2Proof.Machine

/-- The layout of `STATUS`, bit by bit (R24). -/
theorem status_getLsbD (s : State) (k : Nat) :
    s.status.getLsbD k =
      match k with
      | 0 => s.busy
      | 1 => dirBit s.dir
      | 2 => s.errSeq
      | 3 => s.errWrap
      | _ => false := by
  simp only [State.status, BitVec.getLsbD_append, BitVec.getLsbD_ofBool]
  rcases k with _ | _ | _ | _ | k <;> simp

theorem dirBit_eq_decide_right (d : Direction) : dirBit d = decide (d = .right) := by
  cases d <;> rfl

theorem status_high_zero (s : State) {k : Nat} (hk : 4 ≤ k) : s.status.getLsbD k = false := by
  obtain ⟨j, rfl⟩ := Nat.exists_eq_add_of_le' hk
  exact status_getLsbD s (j + 4)

theorem toNat_lt_sixteen_iff (v : StatusWord) : v.toNat < 16 ↔ ∀ k, 4 ≤ k → v.getLsbD k = false :=
  ⟨fun h _ hk => Nat.testBit_lt_two_pow (h.trans_le (Nat.pow_le_pow_right (n := 2) (by decide) hk)),
    Nat.lt_pow_two_of_testBit (n := 4) v.toNat⟩

/-- A status word below 16 is shown by every state with its four flags. -/
theorem status_eq_of_flags {s : State} {v : StatusWord} (hv : v.toNat < 16) (hbusy : s.busy = v.getLsbD 0)
    (hdir : dirBit s.dir = v.getLsbD 1) (hseq : s.errSeq = v.getLsbD 2) (hwrap : s.errWrap = v.getLsbD 3) :
    s.status = v := by
  apply BitVec.eq_of_getLsbD_eq
  intro k _
  by_cases hk : 4 ≤ k
  · rw [status_high_zero s hk, (toNat_lt_sixteen_iff v).mp hv k hk]
  · rw [status_getLsbD]
    interval_cases k <;> assumption

/-! Programs that reach every status, part by part, each from an idle state to an idle state or, last, to an open frame. -/

/-- A right frame whose pre-pass bit is wrong, if the WRAP flag is wanted (R109). -/
def raisingWrap (w : Bool) : List Instr := if w then [.startr 0, .data 1, .endFrame 0] else []

/-- An END outside a frame, if the SEQ flag is wanted (R108). -/
def raisingSeq (e : Bool) : List Instr := if e then [.endFrame 0] else []

/-- A start command in the direction `d`, which END follows if the block is to be idle. -/
def facing (d : Direction) (busy : Bool) : List Instr :=
  (match d with
    | .left => .startl 0
    | .right => .startr 0) :: (if busy then [] else [.endFrame 0])

theorem afterCommands_raisingWrap {s : State} (idle : s.busy = false) (w : Bool) :
    (s.afterCommands (raisingWrap w)).busy = false ∧ (s.afterCommands (raisingWrap w)).errSeq = s.errSeq ∧
    (s.afterCommands (raisingWrap w)).errWrap = (s.errWrap || w) := by
  cases w with
  | false => simp [raisingWrap, idle]
  | true => simp [raisingWrap, idle, State.dataRight_eq, wrapBitOf, lsb]

theorem afterCommands_raisingSeq {s : State} (idle : s.busy = false) (e : Bool) :
    (s.afterCommands (raisingSeq e)).busy = false ∧ (s.afterCommands (raisingSeq e)).errSeq = (s.errSeq || e) ∧
    (s.afterCommands (raisingSeq e)).errWrap = s.errWrap := by
  cases e <;> simp [raisingSeq, idle]

theorem afterCommands_facing {s : State} (idle : s.busy = false) (d : Direction) (busy : Bool) :
    (s.afterCommands (facing d busy)).busy = busy ∧ (s.afterCommands (facing d busy)).dir = d ∧
    (s.afterCommands (facing d busy)).errSeq = s.errSeq ∧ (s.afterCommands (facing d busy)).errWrap = s.errWrap := by
  cases d <;> cases busy <;> simp [facing, idle]

/-- From reset every combination of the four flags of `STATUS` is reached. -/
theorem flags_reachable (h : Byte) (w c busy : Bool) (d : Direction) (es ew : Bool) :
    ∃ cs t, runCommands cs (State.resetWith h w c) = .next t ∧
      t.busy = busy ∧ t.dir = d ∧ t.errSeq = es ∧ t.errWrap = ew := by
  obtain ⟨idle₁, seq₁, wrap₁⟩ := afterCommands_raisingWrap (State.resetWith_busy h w c) ew
  obtain ⟨idle₂, seq₂, wrap₂⟩ := afterCommands_raisingSeq idle₁ es
  obtain ⟨hbusy, hdir, seq₃, wrap₃⟩ := afterCommands_facing idle₂ d busy
  refine ⟨raisingWrap ew ++ raisingSeq es ++ facing d busy, _, runCommands_eq_next _ _, ?_⟩
  simp [hbusy, hdir, seq₃, seq₂, seq₁, wrap₃, wrap₂, wrap₁]

theorem dirBit_surjective : Function.Surjective dirBit
  | false => ⟨.left, rfl⟩
  | true => ⟨.right, rfl⟩

theorem status_reachable_iff (h : Byte) (w c : Bool) (v : StatusWord) :
    (∃ cs t, runCommands cs (State.resetWith h w c) = .next t ∧ t.status = v) ↔ v.toNat < 16 := by
  constructor
  · rintro ⟨_, t, -, rfl⟩
    exact (toNat_lt_sixteen_iff _).mpr fun k hk => status_high_zero t hk
  · intro hv
    obtain ⟨d, hd⟩ := dirBit_surjective (v.getLsbD 1)
    obtain ⟨cs, t, hrun, hbusy, hdir, hseq, hwrap⟩ := flags_reachable h w c (v.getLsbD 0) d (v.getLsbD 2) (v.getLsbD 3)
    exact ⟨cs, t, hrun, status_eq_of_flags hv hbusy (by rw [hdir, hd]) hseq hwrap⟩

theorem status_high_field (s : State) : s.status.extractLsb' 4 4 = 0b0000#4 := by
  apply BitVec.eq_of_getLsbD_eq
  intro k _
  simp [status_high_zero s (Nat.le_add_right 4 k)]

/-- Settles O30: the layout bit by bit, the reset value by evaluation, and a program for each value below 16. -/
theorem statusShowsFourFlags : Obligations.StatusShowsFourFlags := by
  refine ⟨fun s => ⟨status_getLsbD s 0, ?_, status_getLsbD s 2, status_getLsbD s 3, status_high_field s⟩,
    fun _ _ _ => status_eq_of_flags (by decide) rfl rfl rfl rfl, status_reachable_iff⟩
  exact (status_getLsbD s 1).trans (dirBit_eq_decide_right s.dir)

end Sys2Proof.Machine
end

section
/-! PROOFS. The flags at the clock edge (R25). -/

namespace Sys2Proof.Machine

/-- Where the coming cycle has `rst = 1`, the host drives it: past the end of its pins nothing is presented (entry 4). -/
theorem exists_reset_pins {s : State} (h : s.pins.rst = true) : ∃ p rest, s.inputs = p :: rest ∧ p.rst = true := by
  unfold State.pins at h
  cases hin : s.inputs with
  | nil => simp [hin, Pins.quiet] at h
  | cons p rest => exact ⟨p, rest, rfl, by simpa [hin] using h⟩

/-- A clock edge without reset clears no flag (R22). -/
theorem step_keeps_flags {s t : State} (hrst : s.pins.rst = false) (h : step s = .next t) : FlagsKept s t := by
  rcases edgeOf_cases s.pins with ⟨hr, -⟩ | ⟨-, -, -, he⟩ | ⟨-, -, he⟩
  · simp [hrst] at hr
  · rw [step_on_command he] at h
    have kept : FlagsKept s.clocked t := exec_keeps_flags h
    exact kept
  · rw [step_on_hold he] at h
    cases h
    exact .of_eq rfl rfl

theorem err_iff (s : State) : s.err = true ↔ s.errSeq = true ∨ s.errWrap = true := Bool.or_eq_true_iff

/-- Settles O31: an edge without reset keeps both flags, so it keeps `err`. -/
theorem errLineFallsOnlyAtReset : Obligations.ErrLineFallsOnlyAtReset := by
  refine ⟨err_iff, fun s t hstep hs ht => exists_reset_pins ?_⟩
  by_contra hrst
  have kept : t.err = true := (step_keeps_flags (Bool.eq_false_of_not_eq_true hrst) hstep).err hs
  simp [ht] at kept

end Sys2Proof.Machine
end

section
/-! PROOFS. What a command emits, and that it depends on the open frame only (R49, R99). -/

namespace Sys2Proof.Machine

/-- The bytes a command emits: the cell's output where the command produces a byte, else nothing (R90, R99). -/
def State.emittedBy (s : State) (i : Instr) : List Byte := if s.produces i then [s.cellOut i] else []

/-- The bytes a command sequence emits, in order (`afterCommands_output`). -/
def State.emittedByAll (s : State) : List Instr → List Byte
  | [] => []
  | i :: cs => s.emittedBy i ++ (s.afterCommand i).emittedByAll cs

/-! The bytes of one command, by phase (R94, R98). -/

theorem emittedBy_of_idle {s : State} (idle : s.busy = false) (i : Instr) : s.emittedBy i = [] := by
  cases i <;> simp [State.emittedBy, State.produces, idle]

@[simp] theorem emittedBy_startl (s : State) (r : Byte) : s.emittedBy (.startl r) = [] := rfl

@[simp] theorem emittedBy_startr (s : State) (p : Byte) : s.emittedBy (.startr p) = [] := rfl

theorem emittedBy_data_left {s : State} (busy : s.busy = true) (dir : s.dir = .left) (b : Byte) :
    s.emittedBy (.data b) = if s.holdv then [(shl1c s.hold (msb b)).1] else [] := by
  simp [State.emittedBy, State.produces, State.cellOut, State.cellByte, State.cellCarry, cell, busy, dir, dirBit]

theorem emittedBy_data_right {s : State} (busy : s.busy = true) (dir : s.dir = .right) (b : Byte) :
    s.emittedBy (.data b) = [(shr1c b s.carry).1] := by
  simp [State.emittedBy, State.produces, State.cellOut, State.cellByte, State.cellCarry, cell, busy, dir, dirBit,
    Instr.operand]

theorem emittedBy_endFrame_left {s : State} (busy : s.busy = true) (dir : s.dir = .left) (r : Byte) :
    s.emittedBy (.endFrame r) = if s.holdv then [(shl1c s.hold s.wrap).1] else [] := by
  simp [State.emittedBy, State.produces, State.cellOut, State.cellByte, State.cellCarry, cell, busy, dir, dirBit]

theorem emittedBy_endFrame_right {s : State} (dir : s.dir = .right) (r : Byte) : s.emittedBy (.endFrame r) = [] := by
  simp [State.emittedBy, State.produces, dir, dirBit]

/-! The output stream grows by exactly these bytes. -/

theorem dataLeft_output (s : State) (b : Byte) :
    (s.dataLeft b).output = s.output ++ if s.holdv then [(shl1c s.hold (msb b)).1] else [] := by
  unfold State.dataLeft; split <;> simp

theorem endLeft_output (s : State) :
    s.endLeft.output = s.output ++ if s.holdv then [(shl1c s.hold s.wrap).1] else [] := by
  unfold State.endLeft; split <;> simp

@[simp] theorem State.endRight_output (s : State) : s.endRight.output = s.output := by
  unfold State.endRight; split <;> rfl

theorem afterCommand_output_of_idle {s : State} (idle : s.busy = false) (i : Instr) :
    (s.afterCommand i).output = s.output := by
  cases i <;> simp [idle]

theorem afterCommand_output (s : State) (i : Instr) : (s.afterCommand i).output = s.output ++ s.emittedBy i := by
  cases busy : s.busy with
  | false => simp [afterCommand_output_of_idle busy, emittedBy_of_idle busy]
  | true =>
    cases i with
    | data b =>
      cases dir : s.dir with
      | left => simp [busy, dir, dataLeft_output, emittedBy_data_left busy dir]
      | right => simp [busy, dir, State.dataRight_eq, emittedBy_data_right busy dir]
    | startl r => simp [busy]
    | startr p => simp [busy]
    | endFrame r =>
      cases dir : s.dir with
      | left => simp [busy, dir, endLeft_output, emittedBy_endFrame_left busy dir]
      | right => simp [busy, dir, emittedBy_endFrame_right dir]

theorem afterCommands_output (s : State) (cs : List Instr) :
    (s.afterCommands cs).output = s.output ++ s.emittedByAll cs := by
  induction cs generalizing s with
  | nil => simp [State.emittedByAll]
  | cons i cs ih => simp [State.emittedByAll, ih, afterCommand_output]

/-! Two states with the same open frame emit the same bytes (R49). -/

/-- The bytes of a left frame fix what DATA and END read: whether a byte is held and, if so, `HOLD` and `WRAP` (R26). -/
theorem FrameHeld.left_agree {bs : List Byte} {s t : State} (hs : FrameHeld (.left bs) s) (ht : FrameHeld (.left bs) t) :
    s.holdv = t.holdv ∧ (t.holdv = true → s.hold = t.hold ∧ s.wrap = t.wrap) := by
  obtain ⟨-, -, sHeld, sHold, sWrap⟩ := hs
  obtain ⟨-, -, tHeld, tHold, tWrap⟩ := ht
  refine ⟨Bool.eq_iff_iff.mpr (sHeld.trans tHeld.symm), fun held => ?_⟩
  have nonempty : bs ≠ [] := tHeld.mp held
  have last := List.getLast?_eq_some_getLast nonempty
  have first := List.head?_eq_some_head nonempty
  exact ⟨(sHold _ last).trans (tHold _ last).symm, (sWrap _ first).trans (tWrap _ first).symm⟩

theorem FrameHeld.emittedBy_eq {f : OpenFrame} {s t : State} (hs : FrameHeld f s) (ht : FrameHeld f t) (i : Instr) :
    s.emittedBy i = t.emittedBy i := by
  cases f with
  | none =>
    obtain ⟨sIdle, -⟩ := hs
    obtain ⟨tIdle, -⟩ := ht
    rw [emittedBy_of_idle sIdle, emittedBy_of_idle tIdle]
  | left bs =>
    obtain ⟨held, regs⟩ := hs.left_agree ht
    obtain ⟨sBusy, sDir, -⟩ := hs
    obtain ⟨tBusy, tDir, -⟩ := ht
    cases i with
    | data b =>
      rw [emittedBy_data_left sBusy sDir, emittedBy_data_left tBusy tDir, held]
      split_ifs with h
      · obtain ⟨hold, -⟩ := regs h
        rw [hold]
      · rfl
    | startl r => rfl
    | startr p => rfl
    | endFrame r =>
      rw [emittedBy_endFrame_left sBusy sDir, emittedBy_endFrame_left tBusy tDir, held]
      split_ifs with h
      · obtain ⟨hold, wrap⟩ := regs h
        rw [hold, wrap]
      · rfl
  | right p bs =>
    obtain ⟨sBusy, sDir, -, -, sCarry⟩ := hs
    obtain ⟨tBusy, tDir, -, -, tCarry⟩ := ht
    cases i with
    | data b => rw [emittedBy_data_right sBusy sDir, emittedBy_data_right tBusy tDir, sCarry, tCarry]
    | startl r => rfl
    | startr q => rfl
    | endFrame r => rw [emittedBy_endFrame_right sDir, emittedBy_endFrame_right tDir]

/-- Both states are idle, whatever earlier frames left in them, or both hold the same open frame. -/
def SameOpenFrame (s t : State) : Prop :=
  (s.busy = false ∧ t.busy = false) ∨ ∃ f, FrameHeld f s ∧ FrameHeld f t

theorem SameOpenFrame.emittedBy_eq {s t : State} (h : SameOpenFrame s t) (i : Instr) :
    s.emittedBy i = t.emittedBy i := by
  obtain ⟨hs, ht⟩ | ⟨f, hs, ht⟩ := h
  · rw [emittedBy_of_idle hs, emittedBy_of_idle ht]
  · exact hs.emittedBy_eq ht i

theorem frameHeld_after_startl {s : State} (idle : s.busy = false) (r : Byte) :
    FrameHeld (.left []) (s.afterCommand (.startl r)) := by
  simp [FrameHeld, idle]

theorem frameHeld_after_startr {s : State} (idle : s.busy = false) (p : Byte) :
    FrameHeld (.right p []) (s.afterCommand (.startr p)) := by
  simp [FrameHeld, idle, wrapBitOf, lsb]

/-- A start command opens the same frame in any two idle states, and the other commands leave them idle (R92, R93, R108). -/
theorem sameOpenFrame_after_idle {s t : State} (hs : s.busy = false) (ht : t.busy = false) (i : Instr) :
    SameOpenFrame (s.afterCommand i) (t.afterCommand i) := by
  cases i with
  | data b => left; simp [hs, ht]
  | startl r => exact .inr ⟨_, frameHeld_after_startl hs r, frameHeld_after_startl ht r⟩
  | startr p => exact .inr ⟨_, frameHeld_after_startr hs p, frameHeld_after_startr ht p⟩
  | endFrame r => left; simp [hs, ht]

theorem SameOpenFrame.afterCommand {s t : State} (h : SameOpenFrame s t) (i : Instr) :
    SameOpenFrame (s.afterCommand i) (t.afterCommand i) := by
  obtain ⟨hs, ht⟩ | ⟨f, hs, ht⟩ := h
  · exact sameOpenFrame_after_idle hs ht i
  · obtain ⟨m, rfl⟩ : ∃ m : FrameMachine, m.frame = f := ⟨⟨f, [], false, false⟩, rfl⟩
    exact .inr ⟨_, hs.afterCommand i, ht.afterCommand i⟩

theorem SameOpenFrame.emittedByAll_eq {s t : State} (h : SameOpenFrame s t) (cs : List Instr) :
    s.emittedByAll cs = t.emittedByAll cs := by
  induction cs generalizing s t with
  | nil => rfl
  | cons i cs ih => rw [State.emittedByAll, State.emittedByAll, h.emittedBy_eq i, ih (h.afterCommand i)]

/-- Settles O49: two idle states hold the same open frame after every command, and what is emitted depends on it only. -/
theorem framesForgetEarlierFrames : Obligations.FramesForgetEarlierFrames := by
  intro cs s t hs ht
  have same : SameOpenFrame s t := .inl ⟨hs, ht⟩
  refine ⟨_, _, t.emittedByAll cs, runCommands_eq_next cs s, runCommands_eq_next cs t, ?_, afterCommands_output t cs⟩
  rw [afterCommands_output, same.emittedByAll_eq]

end Sys2Proof.Machine
end

section
/-! PROOFS. The opcode map on words: the two fields of a word, its mask and range (R51, R53), the command each `op` selects. -/

namespace Sys2Proof.Machine

theorem opField_append (o : BitVec 2) (b : Byte) : opField (o ++ b) = o := by
  apply BitVec.eq_of_getLsbD_eq
  intro k hk
  simp [opField, Laws.Opcode.append_bit, hk]

/-- A word is its `op` above its `data` (R51). -/
theorem opField_append_dataField (w : CmdWord) : (opField w ++ dataField w : CmdWord) = w := by
  apply BitVec.eq_of_getLsbD_eq
  intro k hk
  rw [Laws.Opcode.append_bit]
  split_ifs with h
  · simp [dataField, h]
  · have high : k - 8 < 2 ∧ 8 + (k - 8) = k := by omega
    simp [opField, high]

/-- The mask `0x300` selects on `op` alone (R53). -/
theorem mask_eq_iff_opField (w : CmdWord) (o : BitVec 2) : w &&& 0x300#10 = o ++ 0#8 ↔ opField w = o := by
  have masked : w &&& 0x300#10 = opField w ++ 0#8 :=
    calc w &&& 0x300#10 = (opField w ++ dataField w : CmdWord) &&& 0x300#10 := by rw [opField_append_dataField]
      _ = opField w ++ 0#8 := Laws.Opcode.mask_of_append _ _
  rw [masked]
  constructor
  · intro h
    rw [← opField_append (opField w) 0#8, h, opField_append]
  · rintro rfl
    rfl

theorem opField_toNat (w : CmdWord) : (opField w).toNat = w.toNat / 256 := by
  have quotient : w.toNat / 256 < 4 := by omega
  simp [opField, Nat.shiftRight_eq_div_pow, Nat.mod_eq_of_lt quotient]

/-- Each match value owns a range of 256 words (R53). -/
theorem mask_eq_iff_range (w : CmdWord) (o : BitVec 2) :
    w &&& 0x300#10 = o ++ 0#8 ↔ 256 * o.toNat ≤ w.toNat ∧ w.toNat ≤ 256 * o.toNat + 255 := by
  rw [mask_eq_iff_opField, ← BitVec.toNat_inj, opField_toNat]
  omega

theorem opField_getLsbD_one (w : CmdWord) : (opField w).getLsbD 1 = w.getLsbD 9 := by
  simp [opField]

/-! The command each `op` selects (R53). -/

theorem decode_data_of_op {w : CmdWord} (h : opField w = 0) : decode w = .data (dataField w) := by
  simp [decode, h]

theorem decode_startl_of_op {w : CmdWord} (h : opField w = 1) : decode w = .startl (dataField w) := by
  simp [decode, h]

theorem decode_startr_of_op {w : CmdWord} (h : opField w = 2) : decode w = .startr (dataField w) := by
  simp [decode, h]

theorem decode_endFrame_of_op {w : CmdWord} (h : opField w = 3) : decode w = .endFrame (dataField w) := by
  simp [decode, h]

/-- An idle block latches `cmd[9]` of a start word as the direction (R17, R53). -/
theorem dirBit_after_start {w : CmdWord} {s : State} (idle : s.busy = false) (h : opField w = 1 ∨ opField w = 2) :
    dirBit (s.afterCommand (decode w)).dir = w.getLsbD 9 := by
  rw [← opField_getLsbD_one]
  rcases h with op | op
  · simp [decode_startl_of_op op, op, idle, dirBit]
  · simp [decode_startr_of_op op, op, idle, dirBit]

/-- Settles O3: the mask and the range of a word both say what its `op` is, and `op` selects the command. -/
theorem opcodeMapSelectsByOp : Obligations.OpcodeMapSelectsByOp := by
  have mask := mask_eq_iff_opField
  have range := mask_eq_iff_range
  refine ⟨fun w => ⟨fun h => decode_data_of_op ((mask w 0).mp h), fun h => decode_startl_of_op ((mask w 1).mp h),
    fun h => decode_startr_of_op ((mask w 2).mp h), fun h => decode_endFrame_of_op ((mask w 3).mp h),
    ?_, range w 1, range w 2, ?_⟩, ?_⟩
  · exact (range w 0).trans (and_iff_right (Nat.zero_le _))
  · exact (range w 3).trans (and_iff_left (Nat.le_of_lt_succ w.isLt))
  · intro w s idle start
    exact ⟨_, exec_eq_next _ s, dirBit_after_start idle (start.imp (mask w 1).mp (mask w 2).mp)⟩

end Sys2Proof.Machine
end

section
/-! PROOFS. Reserved bits (R52, R55). -/

namespace Sys2Proof.Machine

/-- Two commands that differ in reserved bits only: the byte of STARTL and END, `p[7:1]` of STARTR (R52). -/
inductive SameButReserved : Instr → Instr → Prop
  | startl (r q : Byte) : SameButReserved (.startl r) (.startl q)
  | startr {p q : Byte} (wrapBit : wrapBitOf p = wrapBitOf q) : SameButReserved (.startr p) (.startr q)
  | endFrame (r q : Byte) : SameButReserved (.endFrame r) (.endFrame q)

theorem SameButReserved.exec_eq {i j : Instr} (h : SameButReserved i j) (s : State) : exec i s = exec j s := by
  cases h with
  | startl r q => rfl
  | startr wrapBit => rw [exec_eq_next, exec_eq_next, State.afterCommand_startr, State.afterCommand_startr, wrapBit]
  | endFrame r q => rfl

theorem SameButReserved.produces_eq {i j : Instr} (h : SameButReserved i j) (s : State) :
    s.produces i = s.produces j := by
  cases h <;> rfl

/-- A command that produces a byte gives the cell no reserved bit: END does so in a left frame only, where the cell's byte is
`HOLD` (R90, R99). -/
theorem SameButReserved.cellOut_eq {i j : Instr} (h : SameButReserved i j) {s : State} (produced : s.produces i = true) :
    s.cellOut i = s.cellOut j := by
  cases h with
  | startl r q => cases produced
  | startr wrapBit => cases produced
  | endFrame r q =>
    have left : s.dir = .left := by
      cases dir : s.dir with
      | left => rfl
      | right => simp [State.produces, dir, dirBit] at produced
    simp [State.cellOut, State.cellByte, State.cellCarry, left]

theorem outData_of_outValid {s : State} {p : Pins} (h : s.outValid p = true) : s.outData p = s.cellOut (decode p.inCmd) :=
  if_pos h

theorem outValid_of_offer (s : State) (w : CmdWord) (ready : Bool) :
    s.outValid ⟨false, true, w, ready⟩ = s.produces (decode w) := by
  simp [State.outValid]

theorem wrapBitOf_dataField (w : CmdWord) : wrapBitOf (dataField w) = w.getLsbD 0 := by
  simp [wrapBitOf, lsb, dataField]

/-- Words of one `op`, not DATA, that agree in bit 0 if they are STARTR, differ in reserved bits only (R52, R53). -/
theorem sameButReserved_decode {w v : CmdWord} (same : opField w = opField v)
    (op : opField w = 1 ∨ opField w = 3 ∨ (opField w = 2 ∧ w.getLsbD 0 = v.getLsbD 0)) :
    SameButReserved (decode w) (decode v) := by
  rcases op with op | op | ⟨op, bit⟩
  · rw [decode_startl_of_op op, decode_startl_of_op (same ▸ op)]
    exact .startl _ _
  · rw [decode_endFrame_of_op op, decode_endFrame_of_op (same ▸ op)]
    exact .endFrame _ _
  · rw [decode_startr_of_op op, decode_startr_of_op (same ▸ op)]
    exact .startr (by rw [wrapBitOf_dataField, wrapBitOf_dataField, bit])

/-- Settles O5: the two words decode to commands that differ in reserved bits only, which neither `exec` nor the cell reads. -/
theorem reservedBitsAreIgnored : Obligations.ReservedBitsAreIgnored := by
  intro w v s same op
  have twin : SameButReserved (decode w) (decode v) := sameButReserved_decode same op
  refine ⟨twin.exec_eq s, fun ready => ?_⟩
  have valid : s.outValid ⟨false, true, w, ready⟩ = s.outValid ⟨false, true, v, ready⟩ := by
    rw [outValid_of_offer, outValid_of_offer, twin.produces_eq s]
  refine ⟨valid, fun hw => ?_⟩
  rw [outData_of_outValid hw, outData_of_outValid (valid ▸ hw)]
  exact twin.cellOut_eq (by rwa [outValid_of_offer] at hw)

end Sys2Proof.Machine
end

section
/-! PROOFS. The direction tokens (R63). -/

namespace Sys2Proof.Machine

theorem directionOfToken_left : directionOfToken ['l', 'e', 'f', 't'] = some .left := rfl

theorem directionOfToken_right : directionOfToken ['r', 'i', 'g', 'h', 't'] = some .right := rfl

theorem directionOfToken_eq_none {t : List Char} (left : t ≠ ['l', 'e', 'f', 't']) (right : t ≠ ['r', 'i', 'g', 'h', 't']) :
    directionOfToken t = none := by
  rw [directionOfToken, if_neg left, if_neg right]

theorem commandsOfToken_of_direction {t : List Char} {d : Direction} (h : directionOfToken t = some d) (S : List Byte) :
    commandsOfToken t S = some (frameOf d S) := by
  rw [commandsOfToken, h, Option.map_some]

/-- Settles O60: `left` and `right` name the two directions, and no other token names one. -/
theorem directionTokensSelectTheFrame : Obligations.DirectionTokensSelectTheFrame := by
  intro t S
  refine ⟨commandsOfToken_of_direction directionOfToken_left S, commandsOfToken_of_direction directionOfToken_right S,
    fun left right => ?_⟩
  rw [commandsOfToken, directionOfToken_eq_none left right, Option.map_none]

end Sys2Proof.Machine
end

section
/-! PROOFS. `rotate` byte by byte: the loops by index, the ring of cells, length and closed forms (R66, R68, R71 to R73). -/

namespace Sys2Proof.Machine

/-- Byte `i` of the left loop takes the MSB of its successor, the last one the wrapBit (R68). -/
theorem rotateLeftLoop_getElem? (w : Bool) (S : List Byte) (i : Nat) (hi : i < S.length) :
    (rotateLeftLoop w S)[i]? =
      some (shl1c (S.getD i 0) (if i + 1 < S.length then msb (S.getD (i + 1) 0) else w)).1 := by
  induction S generalizing i with
  | nil => cases hi
  | cons b rest ih =>
    cases rest with
    | nil =>
      obtain rfl : i = 0 := by simpa using hi
      rfl
    | cons c rest =>
      rw [rotateLeftLoop_cons]
      cases i with
      | zero => simp
      | succ i => simpa using ih i (by simpa using hi)

/-- Byte `i` of the right loop takes the LSB of its predecessor, the first one `carryBit` (R71). -/
theorem rotateRightLoop_getElem? (c : Bool) (S : List Byte) (i : Nat) (hi : i < S.length) :
    (rotateRightLoop c S)[i]? =
      some (shr1c (S.getD i 0) (if 0 < i then lsb (S.getD (i - 1) 0) else c)).1 := by
  induction S generalizing c i with
  | nil => cases hi
  | cons b rest ih =>
    rw [rotateRightLoop_cons]
    cases i with
    | zero => rfl
    | succ i =>
      have tail := ih (lsb b) i (by simpa using hi)
      cases i with
      | zero => simpa using tail
      | succ i => simpa using tail

/-- The wrapBit of a left rotation is the MSB of byte 0 (R68). -/
theorem rotate_left_eq (S : List Byte) : rotate .left S = rotateLeftLoop (msb (S.getD 0 0)) S := by
  cases S <;> rfl

/-- The wrapBit of a right rotation is the LSB of the last byte (R71). -/
theorem rotate_right_eq (S : List Byte) : rotate .right S = rotateRightLoop (lsb (S.getD (S.length - 1) 0)) S := by
  cases S with
  | nil => rfl
  | cons b rest => simp [rotate, List.getLast?_eq_getElem?]

@[simp] theorem rotate_length (d : Direction) (S : List Byte) : (rotate d S).length = S.length := by
  cases d with
  | left => rw [rotate_left_eq, rotateLeftLoop_length]
  | right => rw [rotate_right_eq, rotateRightLoop_length]

/-- Settles O13: both loops answer one byte for each byte they read. -/
theorem rotationKeepsLength : Obligations.RotationKeepsLength := rotate_length

/-! The neighbours on the ring of `n` bytes. -/

theorem next_index_eq {i n : Nat} (hi : i < n) : (i + 1) % n = if i + 1 < n then i + 1 else 0 := by
  split_ifs with h
  · exact Nat.mod_eq_of_lt h
  · obtain rfl : n = i + 1 := by omega
    exact Nat.mod_self _

theorem previous_index_eq {i n : Nat} (hi : i < n) : (i + n - 1) % n = if 0 < i then i - 1 else n - 1 := by
  split_ifs with h
  · have wrapped : i + n - 1 = i - 1 + n := by omega
    rw [wrapped, Nat.add_mod_right, Nat.mod_eq_of_lt (by omega)]
  · obtain rfl : i = 0 := by omega
    rw [Nat.zero_add, Nat.mod_eq_of_lt (by omega)]

/-- Each byte of a left rotation is the cell's output with the MSB of the next byte on the ring (R87). -/
theorem rotate_left_getElem? {S : List Byte} {i : Nat} (hi : i < S.length) :
    (rotate .left S)[i]? = some (shl1c (S.getD i 0) (msb (S.getD ((i + 1) % S.length) 0))).1 := by
  rw [rotate_left_eq, rotateLeftLoop_getElem? _ S i hi, next_index_eq hi]
  split_ifs <;> rfl

/-- Each byte of a right rotation is the cell's output with the LSB of the byte before it on the ring (R87). -/
theorem rotate_right_getElem? {S : List Byte} {i : Nat} (hi : i < S.length) :
    (rotate .right S)[i]? = some (shr1c (S.getD i 0) (lsb (S.getD ((i + S.length - 1) % S.length) 0))).1 := by
  rw [rotate_right_eq, rotateRightLoop_getElem? _ S i hi, previous_index_eq hi]
  split_ifs <;> rfl

/-! The cell as shifts and as an 8-bit rotation (R68, R71, R72). -/

theorem shl1c_msb_eq_shifts (b c : Byte) : (shl1c b (msb c)).1 = b <<< 1 ||| c >>> 7 := by
  apply BitVec.eq_of_getLsbD_eq
  intro k hk
  rw [shl1c_out_bit]
  cases k with
  | zero => simp [msb]
  | succ k =>
    have above : c.getLsbD (7 + (k + 1)) = false := BitVec.getLsbD_of_ge _ _ (by omega)
    have below : k < 8 := by omega
    simp [hk, above, BitVec.getLsbD_eq_getElem below]

theorem shr1c_lsb_eq_shifts (b c : Byte) : (shr1c b (lsb c)).1 = b >>> 1 ||| (c &&& 1) <<< 7 := by
  apply BitVec.eq_of_getLsbD_eq
  intro k hk
  rw [shr1c_out_bit b (lsb c) k hk]
  split_ifs with top
  · subst top
    simp [lsb]
  · have low : k < 7 := by omega
    simp [low, Nat.add_comm]

theorem shl1c_msb_self (b : Byte) : (shl1c b (msb b)).1 = b.rotateLeft 1 := by
  rw [shl1c_msb_eq_shifts]
  rfl

theorem shr1c_lsb_self (b : Byte) : (shr1c b (lsb b)).1 = b.rotateRight 1 := by
  apply BitVec.eq_of_getLsbD_eq
  intro k hk
  rw [shr1c_out_bit b (lsb b) k hk, BitVec.getLsbD_rotateRight]
  by_cases top : k = 7
  · subst top
    simp [lsb]
  · have low : k < 7 := by omega
    simp [top, low, Nat.add_comm]

theorem rotate_left_singleton (b : Byte) : rotate .left [b] = [(shl1c b (msb b)).1] := rfl

theorem rotate_right_singleton (b : Byte) : rotate .right [b] = [(shr1c b (lsb b)).1] := rfl

/-- Settles O12: a single byte is its own neighbour, and the cell fed its own carry out rotates the byte. -/
theorem emptyAndSingleByteRotations : Obligations.EmptyAndSingleByteRotations := by
  refine ⟨fun d => by cases d <;> rfl, fun b => ⟨rotate_left_singleton b, ?_, rotate_right_singleton b, ?_⟩⟩
  · rw [rotate_left_singleton, shl1c_msb_self]
  · rw [rotate_right_singleton, shr1c_lsb_self]

/-- Settles O10: the loops by index give the byte rules, the ring of cells their closed forms. -/
theorem rotatedBytesFollowTheByteRules : Obligations.RotatedBytesFollowTheByteRules := by
  intro S i hi
  refine ⟨?_, ?_, ?_, ?_⟩
  · rw [rotate_left_eq]
    exact rotateLeftLoop_getElem? _ S i hi
  · rw [rotate_left_getElem? hi, shl1c_msb_eq_shifts]
  · rw [rotate_right_eq]
    exact rotateRightLoop_getElem? _ S i hi
  · rw [rotate_right_getElem? hi, shr1c_lsb_eq_shifts]

end Sys2Proof.Machine
end

section
/-! PROOFS. `rotate` on stream bits (R10, R67, R70) and what follows: inverse, period, permutation (R74, R75, R78). -/

namespace Sys2Proof.Machine

/-- A stream bit of the ring, by byte and place in the byte: the byte index counts modulo `N`. -/
theorem sbit_mod (S : List Byte) (s : Nat) :
    sbit S (s % (8 * S.length)) = (S.getD (s / 8 % S.length) 0).getLsbD (7 - s % 8) := by
  rw [sbit, Nat.mod_mul_right_div_self, Nat.mod_mul_right_mod]

/-- R67 in full. -/
theorem sbit_rotate_left {S : List Byte} {s : Nat} (hs : s < 8 * S.length) :
    sbit (rotate .left S) s = sbit S ((s + 1) % (8 * S.length)) := by
  have hi : s / 8 < S.length := by omega
  rw [sbit, List.getD_eq_getElem?_getD, rotate_left_getElem? hi, Option.getD_some, shl1c_out_bit, sbit_mod]
  by_cases last : s % 8 = 7
  · have next : (s + 1) / 8 = s / 8 + 1 ∧ (s + 1) % 8 = 0 := by omega
    simp [last, next, msb]
  · have same : (s + 1) / 8 = s / 8 ∧ (s + 1) % 8 = s % 8 + 1 := by omega
    have place : 7 - s % 8 ≠ 0 ∧ 7 - s % 8 < 8 ∧ 7 - s % 8 - 1 = 7 - (s % 8 + 1) := by omega
    simp only [place, same, Nat.mod_eq_of_lt hi, if_false, decide_true, Bool.true_and]

/-- R70 in full. -/
theorem sbit_rotate_right {S : List Byte} {s : Nat} (hs : s < 8 * S.length) :
    sbit (rotate .right S) s = sbit S ((s + 8 * S.length - 1) % (8 * S.length)) := by
  have hi : s / 8 < S.length := by omega
  rw [sbit, List.getD_eq_getElem?_getD, rotate_right_getElem? hi, Option.getD_some, shr1c_out_bit _ _ _ (by omega),
    sbit_mod]
  by_cases first : s % 8 = 0
  · have previous : (s + 8 * S.length - 1) / 8 = s / 8 + S.length - 1 ∧ (s + 8 * S.length - 1) % 8 = 7 := by omega
    simp [first, previous, lsb]
  · have same : (s + 8 * S.length - 1) / 8 = s / 8 + S.length ∧ (s + 8 * S.length - 1) % 8 = s % 8 - 1 := by omega
    have place : 7 - s % 8 ≠ 7 ∧ 7 - s % 8 + 1 = 7 - (s % 8 - 1) := by omega
    simp only [place, same, Nat.add_mod_right, Nat.mod_eq_of_lt hi, if_false]

/-- Settles O8: within a byte the cell moves the bit, across two bytes the carry does. -/
theorem leftRotationMovesStreamBitsDown : Obligations.LeftRotationMovesStreamBitsDown :=
  fun _ _ => sbit_rotate_left

/-- Settles O9: within a byte the cell moves the bit, across two bytes the carry does. -/
theorem rightRotationMovesStreamBitsUp : Obligations.RightRotationMovesStreamBitsUp :=
  fun _ _ => sbit_rotate_right

/-- A byte sequence is its stream bits (R10). -/
theorem eq_of_sbit_eq {S T : List Byte} (hlen : S.length = T.length)
    (hbit : ∀ s < 8 * T.length, sbit S s = sbit T s) : S = T := by
  apply List.ext_getElem hlen
  intro i hS hT
  apply BitVec.eq_of_getLsbD_eq
  intro k hk
  have byte : (8 * i + (7 - k)) / 8 = i := by omega
  have place : 7 - (8 * i + (7 - k)) % 8 = k := by omega
  have same : sbit S (8 * i + (7 - k)) = sbit T (8 * i + (7 - k)) := hbit _ (by omega)
  rw [sbit, sbit, byte, place] at same
  simpa [hS, hT] using same

/-! The two rotations are inverse to each other (R74). -/

theorem leftInverse_rotate_right_left : Function.LeftInverse (rotate .right) (rotate .left) := by
  intro S
  apply eq_of_sbit_eq (by simp)
  intro s hs
  have back : (s + 8 * S.length - 1) % (8 * S.length) < 8 * S.length := Nat.mod_lt _ (by omega)
  have round : ((s + 8 * S.length - 1) % (8 * S.length) + 1) % (8 * S.length) = s := by
    rw [Nat.mod_add_mod, Nat.sub_add_cancel (by omega), Nat.add_mod_right, Nat.mod_eq_of_lt hs]
  rw [sbit_rotate_right (by simpa using hs), rotate_length, sbit_rotate_left back, round]

theorem leftInverse_rotate_left_right : Function.LeftInverse (rotate .left) (rotate .right) := by
  intro S
  apply eq_of_sbit_eq (by simp)
  intro s hs
  have forth : (s + 1) % (8 * S.length) < 8 * S.length := Nat.mod_lt _ (by omega)
  have round : ((s + 1) % (8 * S.length) + 8 * S.length - 1) % (8 * S.length) = s := by
    rw [Nat.add_sub_assoc (by omega), Nat.mod_add_mod, Nat.add_assoc, Nat.add_sub_cancel' (by omega),
      Nat.add_mod_right, Nat.mod_eq_of_lt hs]
  rw [sbit_rotate_left (by simpa using hs), rotate_length, sbit_rotate_right forth, round]

/-- Settles O14: a stream bit moved down and up again, or up and down, is where it was. -/
theorem rotationsAreInverse : Obligations.RotationsAreInverse :=
  fun S => ⟨leftInverse_rotate_right_left S, leftInverse_rotate_left_right S⟩

/-! Repeated rotation (R75): the library's iteration and periodic points. -/

theorem rotateTimes_eq_iterate (d : Direction) (k : Nat) (S : List Byte) : rotateTimes d k S = (rotate d)^[k] S := by
  induction k generalizing S with
  | zero => rfl
  | succ k ih => exact ih (rotate d S)

@[simp] theorem rotateTimes_length (d : Direction) (k : Nat) (S : List Byte) : (rotateTimes d k S).length = S.length := by
  induction k generalizing S with
  | zero => rfl
  | succ k ih => rw [rotateTimes, ih, rotate_length]

theorem sbit_rotateTimes_left (k : Nat) {S : List Byte} {s : Nat} (hs : s < 8 * S.length) :
    sbit (rotateTimes .left k S) s = sbit S ((s + k) % (8 * S.length)) := by
  induction k generalizing S with
  | zero => rw [rotateTimes, Nat.add_zero, Nat.mod_eq_of_lt hs]
  | succ k ih =>
    have inside : (s + k) % (8 * S.length) < 8 * S.length := Nat.mod_lt _ (by omega)
    rw [rotateTimes, ih (by simpa using hs), rotate_length, sbit_rotate_left inside, Nat.mod_add_mod, Nat.add_assoc]

theorem isPeriodicPt_rotate_left (S : List Byte) : Function.IsPeriodicPt (rotate .left) (8 * S.length) S := by
  rw [Function.IsPeriodicPt, Function.IsFixedPt, ← rotateTimes_eq_iterate]
  apply eq_of_sbit_eq (rotateTimes_length _ _ S)
  intro s hs
  rw [sbit_rotateTimes_left _ hs, Nat.add_mod_right, Nat.mod_eq_of_lt hs]

/-- Where `j + k` left rotations are a full cycle, `k` of them are `j` right rotations. -/
theorem iterate_rotate_left_eq_right {S : List Byte} {j k : Nat} (h : j + k = 8 * S.length) :
    (rotate .left)^[k] S = (rotate .right)^[j] S :=
  calc (rotate .left)^[k] S
    _ = (rotate .right)^[j] ((rotate .left)^[j] ((rotate .left)^[k] S)) :=
      (leftInverse_rotate_right_left.iterate j _).symm
    _ = (rotate .right)^[j] S := by
      rw [← Function.iterate_add_apply, h, isPeriodicPt_rotate_left S]

theorem isPeriodicPt_rotate (d : Direction) (S : List Byte) : Function.IsPeriodicPt (rotate d) (8 * S.length) S := by
  cases d with
  | left => exact isPeriodicPt_rotate_left S
  | right => exact (iterate_rotate_left_eq_right (Nat.add_zero _)).symm

/-- Settles O15: `8N` is a period of both rotations, so the counts of the left one reduce modulo `8N`, and the rest of a full
cycle undoes them. -/
theorem rotationHasPeriodEightTimesLength : Obligations.RotationHasPeriodEightTimesLength := by
  intro S
  have period (d : Direction) := isPeriodicPt_rotate d S
  simp only [rotateTimes_eq_iterate]
  refine ⟨period, fun k s hs => ?_, fun k k' same => ?_, fun nonempty k => ?_⟩
  · rw [← rotateTimes_eq_iterate, sbit_rotateTimes_left k hs]
  · rw [← (period .left).iterate_mod_apply k, same, (period .left).iterate_mod_apply]
  · have positive : 0 < S.length := List.length_pos_iff.mpr nonempty
    have rest : k % (8 * S.length) < 8 * S.length := Nat.mod_lt _ (by omega)
    rw [← (period .left).iterate_mod_apply k, iterate_rotate_left_eq_right (Nat.sub_add_cancel rest.le)]

/-! The bits are permuted (R78). -/

/-- Counting round a ring of `n` places does not depend on where the count begins. -/
theorem countP_range_next (p : Nat → Bool) (n : Nat) :
    (List.range n).countP (fun s => p ((s + 1) % n)) = (List.range n).countP p := by
  cases n with
  | zero => rfl
  | succ m =>
    have inner : (List.range m).countP (fun s => p ((s + 1) % (m + 1))) = (List.range m).countP (p ∘ Nat.succ) :=
      List.countP_congr fun s hs => by
        have below : s + 1 < m + 1 := Nat.succ_lt_succ (List.mem_range.mp hs)
        simp [Nat.mod_eq_of_lt below]
    calc (List.range (m + 1)).countP (fun s => p ((s + 1) % (m + 1)))
      _ = (List.range m).countP (p ∘ Nat.succ) + if p 0 then 1 else 0 := by
        rw [List.range_succ, List.countP_append, inner, List.countP_singleton, Nat.mod_self]
      _ = (List.range (m + 1)).countP p := by
        rw [List.range_succ_eq_map, List.countP_cons, List.countP_map]

theorem ones_rotate_left (S : List Byte) : ones (rotate .left S) = ones S := by
  have moved : (List.range (8 * S.length)).countP (sbit (rotate .left S)) =
      (List.range (8 * S.length)).countP (fun s => sbit S ((s + 1) % (8 * S.length))) :=
    List.countP_congr fun s hs => by rw [sbit_rotate_left (List.mem_range.mp hs)]
  rw [ones, rotate_length, moved, countP_range_next, ones]

theorem ones_rotate (d : Direction) (S : List Byte) : ones (rotate d S) = ones S := by
  cases d with
  | left => exact ones_rotate_left S
  | right => rw [← ones_rotate_left (rotate .right S), leftInverse_rotate_left_right S]

/-- A sequence whose stream bits are all the same is kept. -/
theorem rotate_of_sbit_const {S : List Byte} {c : Bool} (const : ∀ s < 8 * S.length, sbit S s = c) (d : Direction) :
    rotate d S = S := by
  apply eq_of_sbit_eq (rotate_length d S)
  intro s hs
  have nonempty : 0 < 8 * S.length := by omega
  rw [const s hs]
  cases d with
  | left => rw [sbit_rotate_left hs, const _ (Nat.mod_lt _ nonempty)]
  | right => rw [sbit_rotate_right hs, const _ (Nat.mod_lt _ nonempty)]

theorem sbit_replicate (b : Byte) {n s : Nat} (hs : s < 8 * n) :
    sbit (List.replicate n b) s = b.getLsbD (7 - s % 8) := by
  have hi : s / 8 < n := by omega
  simp [sbit, hi]

/-- Settles O16: the count goes round the ring once, from another place, and equal bits are kept wherever they move. -/
theorem rotationPermutesBits : Obligations.RotationPermutesBits := by
  refine fun d => ⟨ones_rotate d, fun n => ⟨?_, ?_⟩⟩
  · apply rotate_of_sbit_const (c := false)
    intro s hs
    rw [sbit_replicate _ (by simpa using hs)]
    simp
  · have allOnes : ∀ k < 8, (0xFF#8).getLsbD k = true := by decide
    apply rotate_of_sbit_const (c := true)
    intro s hs
    rw [sbit_replicate _ (by simpa using hs), allOnes _ (by omega)]

end Sys2Proof.Machine
end

section
/-! PROOFS. The byte cell (R83 to R87): as numbers and 8-bit rotations, its two directions as inverses, the ring it forms. -/

namespace Sys2Proof.Machine

/-! The cell as numbers (R84, R85). -/

theorem toNat_append_eq_add {m n : Nat} (x : BitVec m) (y : BitVec n) :
    (x ++ y).toNat = x.toNat * 2 ^ n + y.toNat := by
  rw [BitVec.toNat_append, ← Nat.shiftLeft_add_eq_or_of_lt y.isLt, Nat.shiftLeft_eq]

theorem toNat_getLsbD {w : Nat} (x : BitVec w) (i : Nat) : (x.getLsbD i).toNat = x.toNat / 2 ^ i % 2 := by
  rw [← BitVec.testBit_toNat, Nat.toNat_testBit]

theorem shl1c_out_toNat (b : Byte) (c : Bool) : (shl1c b c).1.toNat = 2 * b.toNat % 256 + c.toNat :=
  calc (shl1c b c).1.toNat
    _ = b.toNat % 2 ^ 7 * 2 ^ 1 + c.toNat := by
      rw [shl1c, toNat_append_eq_add, BitVec.extractLsb'_toNat, BitVec.toNat_ofBool, Nat.shiftRight_zero]
    _ = 2 * b.toNat % 256 + c.toNat := by omega

theorem shl1c_cout_toNat (b : Byte) (c : Bool) : (shl1c b c).2.toNat = b.toNat / 128 := by
  have quotient : b.toNat / 2 ^ 7 % 2 = b.toNat / 128 := by omega
  rw [shl1c_cout, toNat_getLsbD, quotient]

theorem shr1c_out_toNat (b : Byte) (c : Bool) : (shr1c b c).1.toNat = b.toNat / 2 + 128 * c.toNat :=
  calc (shr1c b c).1.toNat
    _ = c.toNat * 2 ^ 7 + b.toNat / 2 ^ 1 % 2 ^ 7 := by
      rw [shr1c, toNat_append_eq_add, BitVec.toNat_ofBool, BitVec.extractLsb'_toNat, Nat.shiftRight_eq_div_pow]
    _ = b.toNat / 2 + 128 * c.toNat := by omega

theorem shr1c_cout_toNat (b : Byte) (c : Bool) : (shr1c b c).2.toNat = b.toNat % 2 := by
  rw [shr1c_cout, toNat_getLsbD, Nat.pow_zero, Nat.div_one]

theorem cell_eq (d : Direction) (b : Byte) (c : Bool) : cell d b c = if d = .left then shl1c b c else shr1c b c := by
  cases d <;> rfl

/-- Settles O6: the concatenations are the definitions of the two functions, and the numbers and rotations follow from them. -/
theorem cellShiftsOnePlaceWithCarry : Obligations.CellShiftsOnePlaceWithCarry := fun d b c =>
  ⟨cell_eq d b c, rfl, shl1c_out_toNat b c, shl1c_cout_toNat b c, shl1c_msb_self b,
    rfl, shr1c_out_toNat b c, shr1c_cout_toNat b c, shr1c_lsb_self b⟩

/-! The two directions undo each other (R86): each is a rotation by one place of the nine bits of byte and carry. -/

theorem shr1c_shl1c (b : Byte) (c : Bool) : shr1c (shl1c b c).1 (shl1c b c).2 = (b, c) := by
  apply Prod.ext
  · apply BitVec.eq_of_getLsbD_eq
    intro k hk
    rw [shr1c_out_bit _ _ k hk]
    split_ifs with top
    · rw [top, shl1c_cout]
    · have inside : k + 1 < 8 := by omega
      rw [shl1c_out_bit, if_neg k.succ_ne_zero, decide_eq_true inside, Bool.true_and, Nat.add_sub_cancel]
  · rw [shr1c_cout, shl1c_out_bit, if_pos rfl]

theorem shl1c_shr1c (b : Byte) (c : Bool) : shl1c (shr1c b c).1 (shr1c b c).2 = (b, c) := by
  apply Prod.ext
  · apply BitVec.eq_of_getLsbD_eq
    intro k hk
    rw [shl1c_out_bit]
    cases k with
    | zero => rw [if_pos rfl, shr1c_cout]
    | succ k =>
      have inside : k ≠ 7 := by omega
      rw [if_neg k.succ_ne_zero, decide_eq_true hk, Bool.true_and, Nat.add_sub_cancel,
        shr1c_out_bit b c k (by omega), if_neg inside]
  · rw [shl1c_cout, shr1c_out_bit b c 7 (by omega), if_pos rfl]

theorem shl1c_eq_iff_shr1c_eq (b o : Byte) (c k : Bool) : shl1c b c = (o, k) ↔ shr1c o k = (b, c) := by
  constructor
  · intro left
    have back := shr1c_shl1c b c
    rwa [left] at back
  · intro right
    have back := shl1c_shr1c o k
    rwa [right] at back

/-- Settles O7: each direction is the two-sided inverse of the other. -/
theorem cellDirectionsUndoEachOther : Obligations.CellDirectionsUndoEachOther := by
  refine ⟨shl1c_eq_iff_shr1c_eq, ?_, ?_⟩
  · exact Function.bijective_iff_has_inverse.mpr
      ⟨fun x => shr1c x.1 x.2, fun x => shr1c_shl1c x.1 x.2, fun x => shl1c_shr1c x.1 x.2⟩
  · exact Function.bijective_iff_has_inverse.mpr
      ⟨fun x => shl1c x.1 x.2, fun x => shl1c_shr1c x.1 x.2, fun x => shr1c_shl1c x.1 x.2⟩

/-- Settles O11: whatever is carried in, the carry out of a byte's cell is its MSB or LSB, the bit each loop hands to the
neighbour. -/
theorem rotationIsARingOfCells : Obligations.RotationIsARingOfCells := by
  intro S i x hi
  rw [shl1c_cout, shr1c_cout]
  exact ⟨rotate_left_getElem? hi, rotate_right_getElem? hi⟩

end Sys2Proof.Machine
end

section
/-! PROOFS. The phase table (R95): the meaningful cells as state equations, the cells marked SEQ, the next phase. -/

namespace Sys2Proof.Machine

/-! The phase as what it says of `BUSY`, `DIR` and `HOLDV` (R23). -/

theorem phase_eq_idle_iff (s : State) : s.phase = .idle ↔ s.busy = false := by
  unfold State.phase
  cases s.busy <;> cases s.dir <;> cases s.holdv <;> decide

theorem phase_eq_leftEmpty_iff (s : State) :
    s.phase = .leftEmpty ↔ s.busy = true ∧ s.dir = .left ∧ s.holdv = false := by
  unfold State.phase
  cases s.busy <;> cases s.dir <;> cases s.holdv <;> decide

theorem phase_eq_leftHeld_iff (s : State) :
    s.phase = .leftHeld ↔ s.busy = true ∧ s.dir = .left ∧ s.holdv = true := by
  unfold State.phase
  cases s.busy <;> cases s.dir <;> cases s.holdv <;> decide

theorem phase_eq_right_iff (s : State) : s.phase = .right ↔ s.busy = true ∧ s.dir = .right := by
  unfold State.phase
  cases s.busy <;> cases s.dir <;> cases s.holdv <;> decide

/-! The eight cells of R95 in which a command has a meaning. -/

theorem afterCommand_startl_of_idle {s : State} (h : s.phase = .idle) (r : Byte) :
    s.afterCommand (.startl r) = s.openFrame .left := by
  simp [(phase_eq_idle_iff s).mp h]

theorem afterCommand_startr_of_idle {s : State} (h : s.phase = .idle) (p : Byte) :
    s.afterCommand (.startr p) = (s.openFrame .right).loadWrap (wrapBitOf p) := by
  simp [(phase_eq_idle_iff s).mp h]

theorem afterCommand_data_of_leftEmpty {s : State} (h : s.phase = .leftEmpty) (b : Byte) :
    s.afterCommand (.data b) = s.captureFirst b := by
  obtain ⟨busy, dir, empty⟩ := (phase_eq_leftEmpty_iff s).mp h
  simp [busy, dir, State.dataLeft_of_empty empty]

theorem afterCommand_data_of_leftHeld {s : State} (h : s.phase = .leftHeld) (b : Byte) :
    s.afterCommand (.data b) = (s.emit (shl1c s.hold (msb b)).1).holdByte b := by
  obtain ⟨busy, dir, held⟩ := (phase_eq_leftHeld_iff s).mp h
  simp [busy, dir, State.dataLeft_of_held held]

theorem afterCommand_data_of_right {s : State} (h : s.phase = .right) (b : Byte) :
    s.afterCommand (.data b) = (s.emit (shr1c b s.carry).1).setCarry (lsb b) := by
  obtain ⟨busy, dir⟩ := (phase_eq_right_iff s).mp h
  simp [busy, dir, State.dataRight_eq]

theorem afterCommand_endFrame_of_leftEmpty {s : State} (h : s.phase = .leftEmpty) (r : Byte) :
    s.afterCommand (.endFrame r) = s.dropHeld.closeFrame := by
  obtain ⟨busy, dir, empty⟩ := (phase_eq_leftEmpty_iff s).mp h
  simp [busy, dir, State.endLeft, empty]

theorem afterCommand_endFrame_of_leftHeld {s : State} (h : s.phase = .leftHeld) (r : Byte) :
    s.afterCommand (.endFrame r) = (s.emit (shl1c s.hold s.wrap).1).dropHeld.closeFrame := by
  obtain ⟨busy, dir, held⟩ := (phase_eq_leftHeld_iff s).mp h
  simp [busy, dir, State.endLeft, held]

theorem afterCommand_endFrame_of_right {s : State} (h : s.phase = .right) (r : Byte) :
    s.afterCommand (.endFrame r) = s.endRight := by
  obtain ⟨busy, dir⟩ := (phase_eq_right_iff s).mp h
  simp [busy, dir]

/-! The other eight cells, marked SEQ (R108). -/

@[simp] theorem wrongFor_data (s : State) (b : Byte) : s.phase.wrongFor (.data b) = !s.busy := by
  unfold State.phase
  cases s.busy <;> cases s.dir <;> cases s.holdv <;> rfl

@[simp] theorem wrongFor_startl (s : State) (r : Byte) : s.phase.wrongFor (.startl r) = s.busy := by
  unfold State.phase
  cases s.busy <;> cases s.dir <;> cases s.holdv <;> rfl

@[simp] theorem wrongFor_startr (s : State) (p : Byte) : s.phase.wrongFor (.startr p) = s.busy := by
  unfold State.phase
  cases s.busy <;> cases s.dir <;> cases s.holdv <;> rfl

@[simp] theorem wrongFor_endFrame (s : State) (r : Byte) : s.phase.wrongFor (.endFrame r) = !s.busy := by
  unfold State.phase
  cases s.busy <;> cases s.dir <;> cases s.holdv <;> rfl

theorem afterCommand_of_wrong {s : State} {i : Instr} (wrong : s.phase.wrongFor i = true) :
    s.afterCommand i = s.discardWithSeq := by
  cases i with
  | data b =>
    have idle : s.busy = false := by simpa using wrong
    simp [idle]
  | startl r =>
    have busy : s.busy = true := (wrongFor_startl s r).symm.trans wrong
    simp [busy]
  | startr p =>
    have busy : s.busy = true := (wrongFor_startr s p).symm.trans wrong
    simp [busy]
  | endFrame r =>
    have idle : s.busy = false := by simpa using wrong
    simp [idle]

theorem exec_of_wrong {s : State} {i : Instr} (wrong : s.phase.wrongFor i = true) :
    exec i s = .next { s with errSeq := true } := by
  rw [exec_eq_next, afterCommand_of_wrong wrong]
  rfl

/-- R110: `ERR_SEQ` is set by a command in the wrong phase and by nothing else. -/
theorem afterCommand_errSeq (s : State) (i : Instr) :
    (s.afterCommand i).errSeq = (s.errSeq || s.phase.wrongFor i) := by
  cases i with
  | data b => cases busy : s.busy <;> cases dir : s.dir <;> simp [busy, dir, State.dataRight_eq]
  | startl r => cases busy : s.busy <;> simp [busy]
  | startr p => cases busy : s.busy <;> simp [busy]
  | endFrame r => cases busy : s.busy <;> cases dir : s.dir <;> simp [busy, dir]

theorem Phase.after_of_wrong {p : Phase} {i : Instr} (wrong : p.wrongFor i = true) : p.after i = p := by
  cases p <;> cases i <;> cases wrong <;> rfl

/-- The phase column of R95. -/
theorem afterCommand_phase (s : State) (i : Instr) : (s.afterCommand i).phase = s.phase.after i := by
  cases wrong : s.phase.wrongFor i with
  | true =>
    rw [afterCommand_of_wrong wrong, Phase.after_of_wrong wrong]
    rfl
  | false =>
    cases h : s.phase with
    | idle =>
      cases i with
      | startl r => rw [afterCommand_startl_of_idle h]; rfl
      | startr p => rw [afterCommand_startr_of_idle h]; rfl
      | data b | endFrame r => simp [h, Phase.wrongFor] at wrong
    | leftEmpty =>
      obtain ⟨busy, dir, -⟩ := (phase_eq_leftEmpty_iff s).mp h
      cases i with
      | data b =>
        rw [afterCommand_data_of_leftEmpty h]
        exact (phase_eq_leftHeld_iff _).mpr ⟨busy, dir, rfl⟩
      | startl r | startr r => simp [h, Phase.wrongFor] at wrong
      | endFrame r => rw [afterCommand_endFrame_of_leftEmpty h]; rfl
    | leftHeld =>
      cases i with
      | data b =>
        rw [afterCommand_data_of_leftHeld h]
        exact h
      | startl r | startr r => simp [h, Phase.wrongFor] at wrong
      | endFrame r => rw [afterCommand_endFrame_of_leftHeld h]; rfl
    | right =>
      cases i with
      | data b =>
        rw [afterCommand_data_of_right h]
        exact h
      | startl r | startr r => simp [h, Phase.wrongFor] at wrong
      | endFrame r =>
        rw [afterCommand_endFrame_of_right h]
        exact (phase_eq_idle_iff _).mpr s.endRight_busy

/-- Settles O25: the equation of each meaningful cell, and SEQ in the others. -/
theorem phaseTableHolds : Obligations.PhaseTableHolds := by
  intro i s
  refine ⟨s.afterCommand i, exec_eq_next i s, afterCommand_phase s i, afterCommand_of_wrong, fun right => ?_,
    ?_, ?_, ?_, ?_, ?_, ?_, ?_, ?_⟩
  · rw [afterCommand_errSeq, right, Bool.or_false]
  · rintro r h rfl
    rw [afterCommand_startl_of_idle h]
    rfl
  · rintro p h rfl
    rw [afterCommand_startr_of_idle h]
    exact ⟨rfl, rfl, rfl⟩
  · rintro b h rfl
    rw [afterCommand_data_of_leftEmpty h]
    exact ⟨rfl, rfl, rfl⟩
  · rintro r h rfl
    rw [afterCommand_endFrame_of_leftEmpty h]
    rfl
  · rintro b h rfl
    rw [afterCommand_data_of_leftHeld h]
    exact ⟨rfl, rfl⟩
  · rintro r h rfl
    rw [afterCommand_endFrame_of_leftHeld h]
    rfl
  · rintro b h rfl
    rw [afterCommand_data_of_right h]
    exact ⟨rfl, rfl⟩
  · rintro r h rfl
    rw [afterCommand_endFrame_of_right h]
    exact ⟨s.endRight_output, s.endRight_errWrap⟩

end Sys2Proof.Machine
end

section
/-! PROOFS. The frame commands STARTL (R92), STARTR (R93) and END (R94): their words, and the cells of the phase table as
equations of `exec`. -/

namespace Sys2Proof.Machine

/-! The words of the frame commands. -/

theorem decode_append_startl (r : Byte) : decode (0b01#2 ++ r) = .startl r :=
  (decode_startl_of_op (opField_append 0b01#2 r)).trans (congrArg _ (Laws.Opcode.dataField_of_append _ r))

theorem decode_append_startr (p : Byte) : decode (0b10#2 ++ p) = .startr p :=
  (decode_startr_of_op (opField_append 0b10#2 p)).trans (congrArg _ (Laws.Opcode.dataField_of_append _ p))

theorem decode_append_endFrame (r : Byte) : decode (0b11#2 ++ r) = .endFrame r :=
  (decode_endFrame_of_op (opField_append 0b11#2 r)).trans (congrArg _ (Laws.Opcode.dataField_of_append _ r))

/-! Their meaningful cells as record updates. -/

theorem exec_startl_of_idle {s : State} (idle : s.busy = false) (r : Byte) :
    exec (.startl r) s = .next { s with busy := true, dir := .left, holdv := false } := by
  rw [exec_eq_next, afterCommand_startl_of_idle ((phase_eq_idle_iff s).mpr idle)]
  rfl

theorem exec_startr_of_idle {s : State} (idle : s.busy = false) (p : Byte) :
    exec (.startr p) s =
      .next { s with busy := true, dir := .right, holdv := false, wrap := p.getLsbD 0, carry := p.getLsbD 0 } := by
  rw [exec_eq_next, afterCommand_startr_of_idle ((phase_eq_idle_iff s).mpr idle)]
  rfl

theorem State.endRight_of_match {s : State} (pass : s.carry = s.wrap) : s.endRight = s.closeFrame := by
  simp [State.endRight, pass]

theorem State.endRight_of_mismatch {s : State} (fail : s.carry ≠ s.wrap) : s.endRight = s.raiseWrap.closeFrame := by
  simp [State.endRight, fail]

/-- Settles O17: STARTL has one meaningful cell, idle, and is SEQ inside a frame. -/
theorem startlOpensALeftFrame : Obligations.StartlOpensALeftFrame := by
  refine ⟨decode_append_startl, fun r s idle => exec_startl_of_idle idle r, fun r s busy => ?_, fun h w c => ?_⟩
  · exact exec_of_wrong ((wrongFor_startl s r).trans busy)
  · exact ⟨_, exec_startl_of_idle rfl 0, status_eq_of_flags (by decide) rfl rfl rfl rfl, rfl⟩

/-- Settles O18: the wrapBit reaches `WRAP` and `CARRY` only from idle; inside a frame STARTR is SEQ. -/
theorem startrOpensARightFrameWithItsWrapBit : Obligations.StartrOpensARightFrameWithItsWrapBit := by
  refine ⟨decode_append_startr, fun p s idle => exec_startr_of_idle idle p, fun p s busy => ?_, fun h w c => ?_⟩
  · exact exec_of_wrong ((wrongFor_startr s p).trans busy)
  · exact ⟨_, exec_startr_of_idle rfl 1, rfl, rfl, status_eq_of_flags (by decide) rfl rfl rfl rfl, rfl⟩

/-- Settles O19: the END column of the phase table, its right cell split by the pre-pass check (R109). -/
theorem endClosesTheFrame : Obligations.EndClosesTheFrame := by
  refine ⟨decode_append_endFrame, ?_, ?_, ?_, ?_, ?_⟩
  · intro r s idle
    exact exec_of_wrong (by rw [wrongFor_endFrame, idle]; rfl)
  · intro r s busy dir empty
    rw [exec_eq_next, afterCommand_endFrame_of_leftEmpty ((phase_eq_leftEmpty_iff s).mpr ⟨busy, dir, empty⟩)]
    rfl
  · intro r s busy dir held
    rw [exec_eq_next, afterCommand_endFrame_of_leftHeld ((phase_eq_leftHeld_iff s).mpr ⟨busy, dir, held⟩)]
    rfl
  · intro r s busy dir pass
    rw [exec_eq_next, afterCommand_endFrame_of_right ((phase_eq_right_iff s).mpr ⟨busy, dir⟩),
      State.endRight_of_match pass]
    rfl
  · intro r s busy dir fail
    rw [exec_eq_next, afterCommand_endFrame_of_right ((phase_eq_right_iff s).mpr ⟨busy, dir⟩),
      State.endRight_of_mismatch fail]
    rfl

end Sys2Proof.Machine
end

section
/-! PROOFS. The direction inside a frame (R96). -/

namespace Sys2Proof.Machine

@[simp] theorem State.dataLeft_busy (s : State) (b : Byte) : (s.dataLeft b).busy = s.busy := by
  unfold State.dataLeft; split <;> rfl

@[simp] theorem State.dataLeft_dir (s : State) (b : Byte) : (s.dataLeft b).dir = s.dir := by
  unfold State.dataLeft; split <;> rfl

@[simp] theorem State.dataRight_busy (s : State) (b : Byte) : (s.dataRight b).busy = s.busy := rfl

@[simp] theorem State.dataRight_dir (s : State) (b : Byte) : (s.dataRight b).dir = s.dir := rfl

theorem afterCommand_data_dir (s : State) (b : Byte) : (s.afterCommand (.data b)).dir = s.dir := by
  rw [State.afterCommand_data]
  split_ifs <;> simp

theorem afterCommand_endFrame_dir (s : State) (r : Byte) : (s.afterCommand (.endFrame r)).dir = s.dir := by
  rw [State.afterCommand_endFrame]
  split_ifs <;> simp

theorem afterCommand_dir_of_busy {s : State} (busy : s.busy = true) (i : Instr) : (s.afterCommand i).dir = s.dir := by
  cases i with
  | data b => exact afterCommand_data_dir s b
  | startl r => simp [busy]
  | startr p => simp [busy]
  | endFrame r => exact afterCommand_endFrame_dir s r

theorem afterCommand_stays_busy {s : State} (busy : s.busy = true) {i : Instr} (notEnd : ∀ r, i ≠ .endFrame r) :
    (s.afterCommand i).busy = true := by
  cases i with
  | data b =>
    rw [State.afterCommand_data]
    split_ifs <;> simp [busy]
  | startl r => simp [busy]
  | startr p => simp [busy]
  | endFrame r => exact absurd rfl (notEnd r)

theorem start_of_dir_changed {s : State} {i : Instr} (changed : (s.afterCommand i).dir ≠ s.dir) :
    s.busy = false ∧ ∃ r, i = .startl r ∨ i = .startr r := by
  have idle : s.busy = false := Bool.eq_false_of_not_eq_true fun busy => changed (afterCommand_dir_of_busy busy i)
  refine ⟨idle, ?_⟩
  cases i with
  | data b => exact absurd (afterCommand_data_dir s b) changed
  | startl r => exact ⟨r, .inl rfl⟩
  | startr p => exact ⟨p, .inr rfl⟩
  | endFrame r => exact absurd (afterCommand_endFrame_dir s r) changed

theorem afterCommands_inside_frame {s : State} (busy : s.busy = true) {cs : List Instr}
    (noEnd : ∀ i ∈ cs, ∀ r, i ≠ .endFrame r) :
    (s.afterCommands cs).busy = true ∧ (s.afterCommands cs).dir = s.dir := by
  induction cs generalizing s with
  | nil => exact ⟨busy, rfl⟩
  | cons i cs ih =>
    obtain ⟨notEnd, rest⟩ := List.forall_mem_cons.mp noEnd
    obtain ⟨stays, dir⟩ := ih (afterCommand_stays_busy busy notEnd) rest
    exact ⟨stays, dir.trans (afterCommand_dir_of_busy busy i)⟩

/-- Settles O44: no command changes `DIR` in a busy state, and only END leaves the busy states; by induction over the
commands. -/
theorem directionIsFixedInsideAFrame : Obligations.DirectionIsFixedInsideAFrame := by
  constructor
  · intro i s t next changed
    rw [← afterCommand_of_exec next] at changed
    exact start_of_dir_changed changed
  · intro cs s busy noEnd
    exact ⟨_, runCommands_eq_next cs s, afterCommands_inside_frame busy noEnd⟩

end Sys2Proof.Machine
end

section
/-! PROOFS. The block tracks the frame-at-once machine: the loops of `rotate` grow byte by byte as the open frame does (R68,
R71), and every command adds to both the same bytes and flags (R101, R102, R106). -/

namespace Sys2Proof.Machine

/-! The loops of `rotate` at the end of a sequence. -/

/-- What follows a sequence gives its left loop nothing but the MSB of the next byte (R68). -/
theorem rotateLeftLoop_append_cons (w : Bool) (S : List Byte) (b : Byte) (T : List Byte) :
    rotateLeftLoop w (S ++ b :: T) = rotateLeftLoop (msb b) S ++ rotateLeftLoop w (b :: T) := by
  induction S with
  | nil => rfl
  | cons x S ih =>
    cases S with
    | nil => rfl
    | cons y S => exact congrArg (List.cons _) ih

/-- One more byte of the right loop takes the LSB of the last byte before it, or the first carry (R71). -/
theorem rotateRightLoop_concat (p : Byte) (S : List Byte) (b : Byte) :
    rotateRightLoop (lsb p) (S ++ [b]) = rotateRightLoop (lsb p) S ++ [(shr1c b (lastCarry p S)).1] := by
  induction S generalizing p with
  | nil => rfl
  | cons x S ih =>
    have carried : lastCarry p (x :: S) = lastCarry x S := by rw [lastCarry, lastCarry, List.getLastD_cons]
    rw [List.cons_append, rotateRightLoop_cons, rotateRightLoop_cons, ih, carried, List.cons_append]

/-- A left frame has emitted all its bytes but the last, each with the MSB of its successor (R101). -/
theorem emitted_left_concat (S : List Byte) (b : Byte) :
    (OpenFrame.left (S ++ [b])).emitted = rotateLeftLoop (msb b) S := by
  rw [OpenFrame.emitted, rotate_left_eq, rotateLeftLoop_append_cons, rotateLeftLoop_last, List.dropLast_concat]

/-! One command in an open frame. -/

theorem FrameHeld.emitted_data_left {bs : List Byte} {s : State} (h : FrameHeld (.left bs) s) (b : Byte) :
    (OpenFrame.left (bs ++ [b])).emitted = (OpenFrame.left bs).emitted ++ s.emittedBy (.data b) := by
  obtain ⟨busy, dir, held, hold, -⟩ := h
  rw [emittedBy_data_left busy dir]
  rcases List.eq_nil_or_concat' bs with rfl | ⟨init, last, rfl⟩
  · have empty : s.holdv = false := by simpa using held
    simp [empty, OpenFrame.emitted, rotate, rotateLeftLoop]
  · have full : s.holdv = true := by simpa using held
    rw [emitted_left_concat, emitted_left_concat, rotateLeftLoop_append_cons, rotateLeftLoop_last, if_pos full,
      hold last List.getLast?_concat]

/-- END completes the held byte of a left frame with the wrapBit: the whole rotation is out (R94, R104). -/
theorem FrameHeld.rotate_left_eq_emitted {bs : List Byte} {s : State} (h : FrameHeld (.left bs) s) (r : Byte) :
    rotate .left bs = (OpenFrame.left bs).emitted ++ s.emittedBy (.endFrame r) := by
  obtain ⟨busy, dir, held, hold, wrap⟩ := h
  rw [emittedBy_endFrame_left busy dir]
  rcases List.eq_nil_or_concat' bs with rfl | ⟨init, last, rfl⟩
  · have empty : s.holdv = false := by simpa using held
    simp [empty, OpenFrame.emitted, rotate]
  · have full : s.holdv = true := by simpa using held
    have wrapBit : s.wrap = msb ((init ++ [last]).getD 0 0) := by
      apply wrap
      cases init <;> rfl
    rw [emitted_left_concat, rotate_left_eq, rotateLeftLoop_append_cons, rotateLeftLoop_last, if_pos full,
      hold last List.getLast?_concat, wrapBit]

theorem FrameHeld.emitted_data_right {p : Byte} {bs : List Byte} {s : State} (h : FrameHeld (.right p bs) s) (b : Byte) :
    (OpenFrame.right p (bs ++ [b])).emitted = (OpenFrame.right p bs).emitted ++ s.emittedBy (.data b) := by
  obtain ⟨busy, dir, -, -, carry⟩ := h
  rw [emittedBy_data_right busy dir, carry]
  exact rotateRightLoop_concat p bs b

/-! The simulation. -/

/-- The block `s` and the frame-at-once machine `m` agree: on the open frame, the bytes emitted so far and the two flags. -/
structure Tracks (m : FrameMachine) (s : State) : Prop where
  held : FrameHeld m.frame s
  output : s.output = m.closed ++ m.frame.emitted
  errSeq : s.errSeq = m.errSeq
  errWrap : s.errWrap = m.errWrap

/-- The stream of the frame-at-once machine grows by the bytes the block emits (R106). -/
theorem FrameHeld.stream_after {m : FrameMachine} {s : State} (h : FrameHeld m.frame s) (i : Instr) :
    (m.after i).closed ++ (m.after i).frame.emitted = m.closed ++ m.frame.emitted ++ s.emittedBy i := by
  obtain ⟨f, closed, es, ew⟩ := m
  cases f with
  | none =>
    obtain ⟨idle, -⟩ := h
    rw [emittedBy_of_idle idle]
    cases i <;> simp [FrameMachine.after, OpenFrame.emitted, rotate, rotateRightLoop]
  | left bs =>
    cases i with
    | data b => simpa [FrameMachine.after] using h.emitted_data_left b
    | startl r => simp [FrameMachine.after]
    | startr p => simp [FrameMachine.after]
    | endFrame r => simpa [FrameMachine.after, OpenFrame.emitted] using h.rotate_left_eq_emitted r
  | right p bs =>
    have ⟨_, dir, _⟩ := h
    cases i with
    | data b => simpa [FrameMachine.after] using h.emitted_data_right b
    | startl r => simp [FrameMachine.after]
    | startr q => simp [FrameMachine.after]
    | endFrame r => simp [FrameMachine.after, OpenFrame.emitted, emittedBy_endFrame_right dir]

/-- Both machines find the same commands in the wrong phase (R108). -/
theorem FrameHeld.errSeq_after {m : FrameMachine} {s : State} (h : FrameHeld m.frame s) (i : Instr) :
    (m.after i).errSeq = (m.errSeq || s.phase.wrongFor i) := by
  obtain ⟨f, closed, es, ew⟩ := m
  cases f with
  | none => obtain ⟨idle, -⟩ := h; cases i <;> simp [FrameMachine.after, idle]
  | left bs => obtain ⟨busy, -⟩ := h; cases i <;> simp [FrameMachine.after, busy]
  | right p bs => obtain ⟨busy, -⟩ := h; cases i <;> simp [FrameMachine.after, busy]

/-- Both machines check the pre-pass bit alike, at the END of a right frame (R109). -/
theorem Tracks.errWrap_after {m : FrameMachine} {s : State} (h : Tracks m s) (i : Instr) :
    (s.afterCommand i).errWrap = (m.after i).errWrap := by
  obtain ⟨held, -, -, same⟩ := h
  obtain ⟨f, closed, es, ew⟩ := m
  cases f with
  | none => obtain ⟨idle, -⟩ := held; cases i <;> simp [FrameMachine.after, idle, same]
  | left bs => obtain ⟨busy, dir, -⟩ := held; cases i <;> simp [FrameMachine.after, busy, dir, same]
  | right p bs =>
    obtain ⟨busy, dir, -, wrap, carry⟩ := held
    cases i with
    | data b => simp [FrameMachine.after, busy, dir, same, State.dataRight_eq]
    | startl r => simp [FrameMachine.after, busy, same]
    | startr q => simp [FrameMachine.after, busy, same]
    | endFrame r => simp [FrameMachine.after, busy, dir, same, wrap, carry, lastCarry, lsb]

theorem Tracks.afterCommand {m : FrameMachine} {s : State} (h : Tracks m s) (i : Instr) :
    Tracks (m.after i) (s.afterCommand i) where
  held := h.held.afterCommand i
  output := by rw [afterCommand_output, h.output, h.held.stream_after i]
  errSeq := by rw [afterCommand_errSeq, h.errSeq, h.held.errSeq_after i]
  errWrap := h.errWrap_after i

theorem Tracks.afterCommands {m : FrameMachine} {s : State} (h : Tracks m s) (cs : List Instr) :
    Tracks (m.run cs) (s.afterCommands cs) := by
  induction cs generalizing m s with
  | nil => exact h
  | cons i cs ih => exact ih (h.afterCommand i)

end Sys2Proof.Machine
end

section
/-! PROOFS. The frame-at-once machine inside a frame, and what frames compute (R101 to R105). -/

namespace Sys2Proof.Machine

/-- The frame-at-once machine with the open frame `f` and with all that `s` shows outside as its past. -/
def machineAt (f : OpenFrame) (s : State) : FrameMachine := ⟨f, s.output, s.errSeq, s.errWrap⟩

theorem tracks_after_startl {s : State} (idle : s.busy = false) (r : Byte) :
    Tracks (machineAt (.left []) s) (s.afterCommand (.startl r)) where
  held := frameHeld_after_startl idle r
  output := by simp [machineAt, idle, OpenFrame.emitted, rotate]
  errSeq := by simp [machineAt, idle]
  errWrap := by simp [machineAt, idle]

theorem tracks_after_startr {s : State} (idle : s.busy = false) (p : Byte) :
    Tracks (machineAt (.right p []) s) (s.afterCommand (.startr p)) where
  held := frameHeld_after_startr idle p
  output := by simp [machineAt, idle, OpenFrame.emitted, rotateRightLoop]
  errSeq := by simp [machineAt, idle]
  errWrap := by simp [machineAt, idle]

/-! The commands inside a frame: the bytes of its DATA commands, and the start commands it discards. -/

/-- The byte of a DATA command. -/
def dataByteOf (i : Instr) : Option Byte :=
  match i with
  | .data b => some b
  | .startl _ => none
  | .startr _ => none
  | .endFrame _ => none

/-- The bytes of the DATA commands, in order. -/
def dataBytes (cs : List Instr) : List Byte := cs.filterMap dataByteOf

/-- Whether any command is not DATA. -/
def anyOther (cs : List Instr) : Bool := cs.any fun i => (dataByteOf i).isNone

@[simp] theorem dataBytes_map_data (S : List Byte) : dataBytes (S.map .data) = S := by
  simp [dataBytes, Function.comp_def, dataByteOf, List.filterMap_map]

@[simp] theorem anyOther_map_data (S : List Byte) : anyOther (S.map .data) = false := by
  simp [anyOther, dataByteOf]

theorem noEnd_map_data (S : List Byte) : ∀ i ∈ S.map Instr.data, ∀ r, i ≠ .endFrame r := by simp

/-- The open frame with more bytes accepted in it. -/
def OpenFrame.extend (f : OpenFrame) (new : List Byte) : OpenFrame :=
  match f with
  | .none => .none
  | .left bs => .left (bs ++ new)
  | .right p bs => .right p (bs ++ new)

theorem OpenFrame.extend_nil (f : OpenFrame) : f.extend [] = f := by
  cases f <;> simp [OpenFrame.extend]

theorem OpenFrame.extend_extend (f : OpenFrame) (S T : List Byte) : (f.extend S).extend T = f.extend (S ++ T) := by
  cases f <;> simp [OpenFrame.extend]

theorem OpenFrame.extend_ne_none {f : OpenFrame} (h : f ≠ .none) (S : List Byte) : f.extend S ≠ .none := by
  cases f with
  | none => exact absurd rfl h
  | left bs => exact OpenFrame.noConfusion
  | right p bs => exact OpenFrame.noConfusion

/-- Inside a frame DATA extends the frame and a start command is only recorded (R98, R108). -/
theorem FrameMachine.after_inside_frame {m : FrameMachine} (inFrame : m.frame ≠ .none) {i : Instr}
    (notEnd : ∀ r, i ≠ .endFrame r) :
    m.after i = { m with frame := m.frame.extend (dataBytes [i]), errSeq := m.errSeq || anyOther [i] } := by
  obtain ⟨f, closed, es, ew⟩ := m
  cases i with
  | endFrame r => exact absurd rfl (notEnd r)
  | data b | startl r | startr p =>
    cases f with
    | none => exact absurd rfl inFrame
    | left bs | right q bs => simp [FrameMachine.after, OpenFrame.extend, dataBytes, anyOther, dataByteOf]

theorem FrameMachine.run_inside_frame {m : FrameMachine} (inFrame : m.frame ≠ .none) {cs : List Instr}
    (noEnd : ∀ i ∈ cs, ∀ r, i ≠ .endFrame r) :
    m.run cs = { m with frame := m.frame.extend (dataBytes cs), errSeq := m.errSeq || anyOther cs } := by
  induction cs generalizing m with
  | nil => simp [FrameMachine.run_nil, dataBytes, anyOther, OpenFrame.extend_nil]
  | cons i cs ih =>
    obtain ⟨notEnd, rest⟩ := List.forall_mem_cons.mp noEnd
    have bytes : dataBytes (i :: cs) = dataBytes [i] ++ dataBytes cs := List.filterMap_append (l := [i])
    have others : anyOther (i :: cs) = (anyOther [i] || anyOther cs) := List.any_append (xs := [i])
    rw [FrameMachine.run_cons, FrameMachine.after_inside_frame inFrame notEnd,
      ih (OpenFrame.extend_ne_none inFrame _) rest, OpenFrame.extend_extend, ← bytes, Bool.or_assoc, ← others]

/-- The block inside a left frame, after any commands but END. -/
theorem tracks_inside_left {s : State} (idle : s.busy = false) (r : Byte) {cs : List Instr}
    (noEnd : ∀ i ∈ cs, ∀ q, i ≠ .endFrame q) :
    Tracks { machineAt (.left (dataBytes cs)) s with errSeq := s.errSeq || anyOther cs }
      (s.afterCommands (.startl r :: cs)) := by
  have tracked := (tracks_after_startl idle r).afterCommands cs
  rwa [FrameMachine.run_inside_frame OpenFrame.noConfusion noEnd] at tracked

/-- The block inside a right frame, after any commands but END. -/
theorem tracks_inside_right {s : State} (idle : s.busy = false) (p : Byte) {cs : List Instr}
    (noEnd : ∀ i ∈ cs, ∀ q, i ≠ .endFrame q) :
    Tracks { machineAt (.right p (dataBytes cs)) s with errSeq := s.errSeq || anyOther cs }
      (s.afterCommands (.startr p :: cs)) := by
  have tracked := (tracks_after_startr idle p).afterCommands cs
  rwa [FrameMachine.run_inside_frame OpenFrame.noConfusion noEnd] at tracked

/-! Whole frames. -/

/-- The block after a left frame: the rotation of its DATA bytes is out. -/
theorem tracks_left_frame {s : State} (idle : s.busy = false) (q r : Byte) {cs : List Instr}
    (noEnd : ∀ i ∈ cs, ∀ q, i ≠ .endFrame q) :
    Tracks ⟨.none, s.output ++ rotate .left (dataBytes cs), s.errSeq || anyOther cs, s.errWrap⟩
      (s.afterCommands (.startl q :: cs ++ [.endFrame r])) := by
  rw [State.afterCommands_append]
  exact (tracks_inside_left idle q noEnd).afterCommand (.endFrame r)

/-- The block after a right frame, whatever its pre-pass operand. -/
theorem tracks_right_frame {s : State} (idle : s.busy = false) (p r : Byte) {cs : List Instr}
    (noEnd : ∀ i ∈ cs, ∀ q, i ≠ .endFrame q) :
    Tracks ⟨.none, s.output ++ rotateRightLoop (lsb p) (dataBytes cs), s.errSeq || anyOther cs,
        s.errWrap || (lastCarry p (dataBytes cs) != lsb p)⟩
      (s.afterCommands (.startr p :: cs ++ [.endFrame r])) := by
  rw [State.afterCommands_append]
  exact (tracks_inside_right idle p noEnd).afterCommand (.endFrame r)

/-- `ROTL S` leaves the rotation of `S` and no flag (R104). -/
theorem tracks_rotl {s : State} (idle : s.busy = false) (S : List Byte) :
    Tracks ⟨.none, s.output ++ rotate .left S, s.errSeq, s.errWrap⟩ (s.afterCommands (rotl S)) := by
  have tracked := tracks_left_frame idle 0 0 (noEnd_map_data S)
  rw [dataBytes_map_data, anyOther_map_data, Bool.or_false] at tracked
  exact tracked

/-- A right frame over `S` opened with any pre-pass operand (R105, R109). -/
theorem tracks_startr_frameBody {s : State} (idle : s.busy = false) (p : Byte) (S : List Byte) :
    Tracks ⟨.none, s.output ++ rotateRightLoop (lsb p) S, s.errSeq, s.errWrap || (lastCarry p S != lsb p)⟩
      (s.afterCommands (.startr p :: frameBody S)) := by
  have tracked := tracks_right_frame idle p 0 (noEnd_map_data S)
  rw [dataBytes_map_data, anyOther_map_data, Bool.or_false] at tracked
  exact tracked

/-- The pre-pass operand delivers the wrapBit of the right rotation (R62, R71). -/
theorem rotate_right_eq_prePass (S : List Byte) : rotate .right S = rotateRightLoop (lsb (prePass S)) S := by
  rcases List.eq_nil_or_concat' S with rfl | ⟨init, last, rfl⟩
  · rfl
  · simp [rotate, prePass]

theorem lastCarry_prePass (S : List Byte) : lastCarry (prePass S) S = lsb (prePass S) := by
  cases S with
  | nil => rfl
  | cons b rest => rw [lastCarry, prePass, List.getLastD_cons, List.getLastD_cons]

theorem afterCommands_frameBody_dir {s : State} (busy : s.busy = true) (S : List Byte) :
    (s.afterCommands (frameBody S)).dir = s.dir := by
  obtain ⟨-, dir⟩ := afterCommands_inside_frame busy (noEnd_map_data S)
  rw [frameBody, State.afterCommands_append, State.afterCommands_cons, State.afterCommands_nil, afterCommand_endFrame_dir,
    dir]

/-- Settles O37: the block tracks the frame-at-once machine through the frame, which closes with the whole rotation. -/
theorem leftFramesComputeRotateLeft : Obligations.LeftFramesComputeRotateLeft := by
  intro S s idle
  obtain ⟨⟨notBusy, empty⟩, output, errSeq, errWrap⟩ := tracks_rotl idle S
  obtain ⟨busy, dir, -⟩ := frameHeld_after_startl idle 0
  refine ⟨_, runCommands_eq_next _ s, ?_, errSeq, errWrap, notBusy, (afterCommands_frameBody_dir busy S).trans dir, empty⟩
  simpa [OpenFrame.emitted] using output

/-- `ROTR S` leaves the rotation of `S` and no flag: the pre-pass check passes (R105). -/
theorem tracks_rotr {s : State} (idle : s.busy = false) (S : List Byte) :
    Tracks ⟨.none, s.output ++ rotate .right S, s.errSeq, s.errWrap⟩ (s.afterCommands (rotr S)) := by
  have tracked := tracks_startr_frameBody idle (prePass S) S
  rw [lastCarry_prePass, ← rotate_right_eq_prePass, bne_self_eq_false, Bool.or_false] at tracked
  exact tracked

/-- Settles O38: the block tracks the frame-at-once machine through the frame; the pre-pass operand makes the loop's first
carry the wrapBit. -/
theorem rightFramesComputeRotateRight : Obligations.RightFramesComputeRotateRight := by
  intro S s idle
  obtain ⟨⟨notBusy, empty⟩, output, errSeq, errWrap⟩ := tracks_rotr idle S
  obtain ⟨busy, dir, -⟩ := frameHeld_after_startr idle (prePass S)
  refine ⟨_, runCommands_eq_next _ s, ?_, errSeq, errWrap, notBusy, (afterCommands_frameBody_dir busy S).trans dir, empty⟩
  simpa [OpenFrame.emitted] using output

/-! Inside a frame. -/

/-- The bytes a left frame has emitted are the first ones of the rotation of every sequence that begins so (R101). -/
theorem emitted_left_eq_take {S : List Byte} (nonempty : S ≠ []) (more : List Byte) :
    (OpenFrame.left S).emitted = (rotate .left (S ++ more)).take (S.length - 1) := by
  obtain ⟨init, last, rfl⟩ := (List.eq_nil_or_concat' S).resolve_left nonempty
  rw [emitted_left_concat, rotate_left_eq, List.append_assoc, List.singleton_append, rotateLeftLoop_append_cons,
    List.take_left' (by simp)]

@[simp] theorem emitted_none : OpenFrame.none.emitted = [] := rfl

theorem emitted_right_length (p : Byte) (S : List Byte) : (OpenFrame.right p S).emitted.length = S.length :=
  rotateRightLoop_length _ S

theorem emitted_left_length (S : List Byte) : (OpenFrame.left S).emitted.length = S.length - 1 := by
  rw [OpenFrame.emitted, List.length_dropLast, rotate_length]

theorem emitted_left_getElem? {S : List Byte} {j : Nat} (hj : j + 1 < S.length) :
    (OpenFrame.left S).emitted[j]? = some (shl1c (S.getD j 0) (msb (S.getD (j + 1) 0))).1 := by
  rw [OpenFrame.emitted, List.getElem?_dropLast, rotate_length, if_pos (by omega), rotate_left_getElem? (by omega),
    Nat.mod_eq_of_lt hj]

/-- Settles O39: R26 (c) gives the registers, the emitted part of the open frame the bytes. -/
theorem openLeftFrameHoldsItsLastByte : Obligations.OpenLeftFrameHoldsItsLastByte := by
  intro S r s idle nonempty
  have tracked := tracks_inside_left idle r (noEnd_map_data S)
  rw [dataBytes_map_data] at tracked
  obtain ⟨⟨busy, dir, held, hold, wrap⟩, output, -, -⟩ := tracked
  refine ⟨_, _, runCommands_eq_next _ s, busy, dir, held.mpr nonempty, hold _ ?_, wrap _ ?_, output,
    emitted_left_length S, fun j => emitted_left_getElem?, emitted_left_eq_take nonempty⟩
  · simp [List.getLast?_eq_some_getLast nonempty, List.getLastD_eq_getLast?]
  · cases S with
    | nil => exact absurd rfl nonempty
    | cons b rest => rfl

/-- Settles O40: R26 (d) gives the registers, the right loop by index the bytes. -/
theorem openRightFrameCarriesItsLastBit : Obligations.OpenRightFrameCarriesItsLastBit := by
  intro S p s idle
  have tracked := tracks_inside_right idle p (noEnd_map_data S)
  rw [dataBytes_map_data] at tracked
  obtain ⟨⟨busy, dir, empty, wrap, carry⟩, output, -, -⟩ := tracked
  have byte := rotateRightLoop_getElem? (lsb p) S
  refine ⟨_, _, runCommands_eq_next _ s, busy, dir, empty, wrap, carry, output, rotateRightLoop_length _ S,
    byte 0, fun j pos hj => ?_⟩
  exact (byte j hj).trans (by rw [if_pos pos]; rfl)

/-- Settles O41: the open frame holds one byte per DATA; before END a left one has emitted all but the last and a right one
all, and END completes both. -/
theorem frameEmitsOneBytePerData : Obligations.FrameEmitsOneBytePerData := by
  intro o body r s idle noEnd n hn
  have count : n = (dataBytes body).length := hn
  refine ⟨_, _, runCommands_eq_next _ s, runCommands_eq_next _ s, ?_, ?_⟩
  · rintro ⟨q, rfl⟩
    rw [(tracks_inside_left idle q noEnd).output, (tracks_left_frame idle q r noEnd).output]
    simp [machineAt, emitted_left_length, emitted_none, count]
  · rintro ⟨q, rfl⟩
    rw [(tracks_inside_right idle q noEnd).output, (tracks_right_frame idle q r noEnd).output]
    simp [machineAt, emitted_right_length, emitted_none, count]

end Sys2Proof.Machine
end

section
/-! PROOFS. The DATA command (R98): its words, and its cells of the phase table as equations of `exec`. -/

namespace Sys2Proof.Machine

theorem decode_append_data (b : Byte) : decode (0b00#2 ++ b) = .data b :=
  (decode_data_of_op (opField_append 0b00#2 b)).trans (congrArg _ (Laws.Opcode.dataField_of_append _ b))

/-- Settles O20: the DATA column of the phase table. -/
theorem dataSuppliesTheNextByte : Obligations.DataSuppliesTheNextByte := by
  refine ⟨decode_append_data, ?_, ?_, ?_, ?_⟩
  · intro b s idle
    exact exec_of_wrong (by rw [wrongFor_data, idle]; rfl)
  · intro b s busy dir empty
    rw [exec_eq_next, afterCommand_data_of_leftEmpty ((phase_eq_leftEmpty_iff s).mpr ⟨busy, dir, empty⟩)]
    rfl
  · intro b s busy dir held
    rw [exec_eq_next, afterCommand_data_of_leftHeld ((phase_eq_leftHeld_iff s).mpr ⟨busy, dir, held⟩)]
    rfl
  · intro b s busy dir
    rw [exec_eq_next, afterCommand_data_of_right ((phase_eq_right_iff s).mpr ⟨busy, dir⟩)]
    rfl

end Sys2Proof.Machine
end

section
/-! PROOFS. Whether a command emits (R99). -/

namespace Sys2Proof.Machine

theorem produces_data_iff (s : State) (b : Byte) :
    s.produces (.data b) = true ↔ s.busy = true ∧ (s.dir = .right ∨ (s.dir = .left ∧ s.holdv = true)) := by
  cases dir : s.dir <;> simp [State.produces, dir, dirBit]

theorem produces_endFrame_iff (s : State) (r : Byte) :
    s.produces (.endFrame r) = true ↔ s.busy = true ∧ s.dir = .left ∧ s.holdv = true := by
  cases dir : s.dir <;> simp [State.produces, dir, dirBit]

theorem produces_iff (s : State) (i : Instr) :
    s.produces i = true ↔
      ((∃ b, i = .data b) ∧ s.busy = true ∧ s.dir = .right) ∨
      ((∃ b, i = .data b) ∧ s.busy = true ∧ s.dir = .left ∧ s.holdv = true) ∨
      ((∃ r, i = .endFrame r) ∧ s.busy = true ∧ s.dir = .left ∧ s.holdv = true) := by
  cases i with
  | data b => simp [produces_data_iff, and_or_left]
  | startl r | startr p => simp [State.produces]
  | endFrame r => simp [produces_endFrame_iff]

theorem emittedBy_of_produces {s : State} {i : Instr} (h : s.produces i = true) : s.emittedBy i = [s.cellOut i] := if_pos h

theorem emittedBy_of_not_produces {s : State} {i : Instr} (h : s.produces i = false) : s.emittedBy i = [] := by
  simp [State.emittedBy, h]

/-- The command of a word has the word's `op` (R53). -/
theorem decode_op (w : CmdWord) : (decode w).op = opField w := by
  have ops : ∀ o : BitVec 2, o = 0 ∨ o = 1 ∨ o = 2 ∨ o = 3 := by decide
  rcases ops (opField w) with op | op | op | op
  · rw [decode_data_of_op op, op, Instr.op]
  · rw [decode_startl_of_op op, op, Instr.op]
  · rw [decode_startr_of_op op, op, Instr.op]
  · rw [decode_endFrame_of_op op, op, Instr.op]

/-- Of the command, `produces` reads the `op` alone. -/
theorem produces_eq_op (s : State) (i : Instr) :
    s.produces i =
      (s.busy && (i.op == 0 && (dirBit s.dir || s.holdv) || i.op == 3 && (!dirBit s.dir && s.holdv))) := by
  cases i <;> simp [State.produces, Instr.op, Bool.and_assoc]

/-- Settles O54: the output stream grows by the emitted bytes, one exactly where `produces` holds, which reads `op` only. -/
theorem emissionIsDecidedByStateAndOpcode : Obligations.EmissionIsDecidedByStateAndOpcode := by
  refine ⟨fun i s => produces_iff s i, fun i s => ⟨_, exec_eq_next i s, fun h => ⟨s.cellOut i, ?_⟩, fun h => ?_⟩,
    fun w v s same => ?_⟩
  · rw [afterCommand_output, emittedBy_of_produces h]
  · rw [afterCommand_output, emittedBy_of_not_produces h, List.append_nil]
  · have op : (decode w).op = (decode v).op := (decode_op w).trans (same.trans (decode_op v).symm)
    rw [produces_eq_op, produces_eq_op, op]

end Sys2Proof.Machine
end

section
/-! PROOFS. The wrong pre-pass bit of a right frame (R109). -/

namespace Sys2Proof.Machine

/-- The carry into a right shift lands in the MSB and nowhere else (R85). -/
theorem shr1c_not_carry (b : Byte) (c : Bool) : (shr1c b (!c)).1 = (shr1c b c).1 ^^^ 0x80 := by
  apply BitVec.eq_of_getLsbD_eq
  intro k hk
  have onlyTop : (0x80 : Byte).getLsbD k = decide (7 = k) := BitVec.getLsbD_twoPow 7 k
  rw [BitVec.getLsbD_xor, onlyTop, shr1c_out_bit b _ k hk, shr1c_out_bit b c k hk]
  split_ifs with top
  · simp [top]
  · simp [Ne.symm top]

/-- The first carry of the right loop reaches its first byte only, and there the MSB only (R71). -/
theorem rotateRightLoop_not_carry (c : Bool) (x : Byte) (S : List Byte) :
    rotateRightLoop (!c) (x :: S) = ((shr1c x c).1 ^^^ 0x80) :: rotateRightLoop (lsb x) S := by
  rw [rotateRightLoop_cons, shr1c_not_carry]

/-- Over a nonempty sequence the last carry is the wrapBit, whatever was promised (R21, R71). -/
theorem lastCarry_cons_eq_prePass (p x : Byte) (S : List Byte) : lastCarry p (x :: S) = lsb (prePass (x :: S)) := by
  rw [lastCarry, prePass, List.getLastD_cons, List.getLastD_cons]

/-- Settles O42: the promised bit enters the right loop as its first carry only, and END finds that it is not the last one. -/
theorem wrongPrePassInvertsOneBitAndRecordsWrap : Obligations.WrongPrePassInvertsOneBitAndRecordsWrap := by
  intro S p s idle nonempty wrong
  obtain ⟨x, S, rfl⟩ := List.exists_cons_of_ne_nil nonempty
  have inverted : lsb p = !lsb (prePass (x :: S)) := Bool.eq_not_of_ne wrong
  obtain ⟨⟨notBusy, -⟩, output, errSeq, errWrap⟩ := tracks_startr_frameBody idle p (x :: S)
  simp only [inverted, rotateRightLoop_not_carry, emitted_none, List.append_nil] at output
  simp only [lastCarry_cons_eq_prePass, inverted, Bool.bne_not_self, Bool.or_true] at errWrap
  obtain ⟨busy, dir, -⟩ := frameHeld_after_startr idle p
  exact ⟨_, (shr1c x (lsb (prePass (x :: S)))).1, rotateRightLoop (lsb x) S, runCommands_eq_next _ s,
    rotate_right_eq_prePass (x :: S), output, errWrap, (status_getLsbD _ 3).trans errWrap, errSeq, notBusy,
    (afterCommands_frameBody_dir busy _).trans dir⟩

end Sys2Proof.Machine
end

section
/-! PROOFS. A command in the wrong phase is discarded (R108): what follows it runs as if it had not been sent (R119). -/

namespace Sys2Proof.Machine

/-! No command reads `ERR_SEQ`: setting it before or after a command is the same. -/

theorem State.dataLeft_discardWithSeq (s : State) (b : Byte) :
    s.discardWithSeq.dataLeft b = (s.dataLeft b).discardWithSeq := by
  rw [State.dataLeft, State.dataLeft, apply_ite State.discardWithSeq]
  rfl

theorem State.endLeft_discardWithSeq (s : State) : s.discardWithSeq.endLeft = s.endLeft.discardWithSeq := by
  rw [State.endLeft, State.endLeft, apply_ite State.discardWithSeq]
  rfl

theorem State.endRight_discardWithSeq (s : State) : s.discardWithSeq.endRight = s.endRight.discardWithSeq := by
  rw [State.endRight, State.endRight, apply_ite State.discardWithSeq]
  rfl

theorem afterCommand_discardWithSeq (s : State) (i : Instr) :
    s.discardWithSeq.afterCommand i = (s.afterCommand i).discardWithSeq := by
  cases i with
  | data b =>
    simp only [State.afterCommand_data, apply_ite State.discardWithSeq, ← State.dataLeft_discardWithSeq]
    rfl
  | startl r =>
    simp only [State.afterCommand_startl, apply_ite State.discardWithSeq]
    rfl
  | startr p =>
    simp only [State.afterCommand_startr, apply_ite State.discardWithSeq]
    rfl
  | endFrame r =>
    simp only [State.afterCommand_endFrame, apply_ite State.discardWithSeq, ← State.endLeft_discardWithSeq,
      ← State.endRight_discardWithSeq]
    rfl

theorem afterCommands_discardWithSeq (s : State) (cs : List Instr) :
    s.discardWithSeq.afterCommands cs = (s.afterCommands cs).discardWithSeq := by
  induction cs generalizing s with
  | nil => rfl
  | cons i cs ih => rw [State.afterCommands_cons, afterCommand_discardWithSeq, ih, State.afterCommands_cons]

/-- The stray commands of R108 are those the phase table marks SEQ. -/
theorem wrongFor_of_stray {s : State} {i : Instr}
    (stray : (s.busy = false ∧ ∃ r, i = .data r ∨ i = .endFrame r) ∨
      (s.busy = true ∧ ∃ r, i = .startl r ∨ i = .startr r)) : s.phase.wrongFor i = true := by
  obtain ⟨idle, r, rfl | rfl⟩ | ⟨busy, r, rfl | rfl⟩ := stray
  · rw [wrongFor_data, idle, Bool.not_false]
  · rw [wrongFor_endFrame, idle, Bool.not_false]
  · rw [wrongFor_startl, busy]
  · rw [wrongFor_startr, busy]

/-- Settles O28: the command leaves `ERR_SEQ` set and nothing else, and setting it commutes with every command that follows. -/
theorem strayCommandOnlyRecordsSeq : Obligations.StrayCommandOnlyRecordsSeq := by
  intro i cs s stray
  have wrong : s.phase.wrongFor i = true := wrongFor_of_stray stray
  refine ⟨exec_of_wrong wrong, status_getLsbD _ 2, _, runCommands_eq_next cs s, ?_⟩
  rw [runCommands_eq_next, State.afterCommands_cons, afterCommand_of_wrong wrong, afterCommands_discardWithSeq]
  rfl

end Sys2Proof.Machine
end

section
/-! PROOFS. The causes of the two faults (R110), and that a step raises at most one (R114). -/

namespace Sys2Proof.Machine

/-! `ERR_WRAP` is written by the END of a right frame only; `afterCommand_errSeq` is the equation of the other flag. -/

theorem afterCommand_data_errWrap (s : State) (b : Byte) : (s.afterCommand (.data b)).errWrap = s.errWrap := by
  rw [State.afterCommand_data]
  split_ifs <;> simp [State.dataRight_eq]

theorem afterCommand_startl_errWrap (s : State) (r : Byte) : (s.afterCommand (.startl r)).errWrap = s.errWrap := by
  rw [State.afterCommand_startl]
  split_ifs <;> rfl

theorem afterCommand_startr_errWrap (s : State) (p : Byte) : (s.afterCommand (.startr p)).errWrap = s.errWrap := by
  rw [State.afterCommand_startr]
  split_ifs <;> rfl

theorem afterCommand_endFrame_errWrap (s : State) (r : Byte) :
    (s.afterCommand (.endFrame r)).errWrap =
      (s.errWrap || (s.busy && decide (s.dir = .right) && (s.carry != s.wrap))) := by
  cases busy : s.busy <;> cases dir : s.dir <;> simp [busy, dir]

/-- A command that sets a clear `ERR_SEQ` is in the wrong phase, so it has no other effect (R108). -/
theorem afterCommand_eq_discardWithSeq {s : State} {i : Instr} (clear : s.errSeq = false)
    (raised : (s.afterCommand i).errSeq = true) : s.afterCommand i = s.discardWithSeq := by
  rw [afterCommand_errSeq, clear, Bool.false_or] at raised
  exact afterCommand_of_wrong raised

/-- Settles O26: `ERR_SEQ` by the phase table, `ERR_WRAP` by command. -/
theorem faultsHaveExactlyTheirCauses : Obligations.FaultsHaveExactlyTheirCauses := by
  intro i s
  refine ⟨_, exec_eq_next i s, ?_, ?_, fun raised clear => afterCommand_eq_discardWithSeq clear raised⟩
  · rw [afterCommand_errSeq]
    cases i with
    | data b => rw [wrongFor_data]
    | startl r => rw [wrongFor_startl]
    | startr p => rw [wrongFor_startr]
    | endFrame r => rw [wrongFor_endFrame]
  · cases i with
    | data b => rw [afterCommand_data_errWrap, Bool.or_false]
    | startl r => rw [afterCommand_startl_errWrap, Bool.or_false]
    | startr p => rw [afterCommand_startr_errWrap, Bool.or_false]
    | endFrame r => exact afterCommand_endFrame_errWrap s r

/-- SEQ and WRAP are raised in disjoint branches: a command that raises SEQ leaves `ERR_WRAP` (R114). -/
theorem afterCommand_not_both_flags {s : State} (clearSeq : s.errSeq = false) (clearWrap : s.errWrap = false) (i : Instr) :
    ¬((s.afterCommand i).errSeq = true ∧ (s.afterCommand i).errWrap = true) := by
  rintro ⟨raisedSeq, raisedWrap⟩
  rw [afterCommand_eq_discardWithSeq clearSeq raisedSeq, State.discardWithSeq_errWrap, clearWrap] at raisedWrap
  cases raisedWrap

theorem not_accepted_of_reset {p : Pins} (rst : p.rst = true) : accepted p = false := by
  simp [accepted, inReady, rst]

theorem edgeOf_of_reset {p : Pins} (rst : p.rst = true) : edgeOf p = .reset := if_pos rst

theorem pins_of_inputs {s : State} {p : Pins} {rest : List Pins} (h : s.inputs = p :: rest) : s.pins = p := by
  rw [State.pins, h, List.headD_cons]

/-- Settles O27: the two flags are raised in disjoint branches, and a cycle with `rst = 1` takes the reset edge whatever it
offers. -/
theorem aStepRaisesAtMostOneFault : Obligations.AStepRaisesAtMostOneFault := by
  constructor
  · intro i s t clearSeq clearWrap next
    rw [← afterCommand_of_exec next]
    exact afterCommand_not_both_flags clearSeq clearWrap i
  · intro s p rest inputs rst
    have edge : edgeOf s.pins = .reset := edgeOf_of_reset (by rw [pins_of_inputs inputs, rst])
    exact ⟨not_accepted_of_reset rst, _, step_on_reset edge, rfl, rfl, rfl⟩

end Sys2Proof.Machine
end

section
/-! PROOFS. Reset (R127, R128) and the absence of any stall (R146). -/

namespace Sys2Proof.Machine

theorem inReady_of_reset {p : Pins} (rst : p.rst = true) : inReady p = false := by
  simp [inReady, rst]

theorem outValid_of_reset {p : Pins} (rst : p.rst = true) (s : State) : s.outValid p = false := by
  simp [State.outValid, rst]

theorem step_of_reset {s : State} {p : Pins} {rest : List Pins} (inputs : s.inputs = p :: rest) (rst : p.rst = true) :
    step s = .next s.takeReset.clocked :=
  step_on_reset (by rw [pins_of_inputs inputs, edgeOf_of_reset rst])

/-- Settles O51: a cycle with `rst = 1` takes the reset edge, whose state has all four flags of `STATUS` clear. -/
theorem resetEdgeGivesTheResetState : Obligations.ResetEdgeGivesTheResetState := by
  intro s p rest inputs rst
  have status : s.takeReset.clocked.status = 0x00 := status_eq_of_flags (by decide) rfl rfl rfl rfl
  exact ⟨inReady_of_reset rst, outValid_of_reset rst s, _, step_of_reset inputs rst,
    rfl, rfl, rfl, rfl, rfl, status, rfl, rfl, rfl⟩

theorem inReady_of_no_reset {p : Pins} (noReset : p.rst = false) : inReady p = p.outReady := by
  simp [inReady, noReset]

/-- The END column of the phase table is IDLE in every row (R95). -/
theorem afterCommand_endFrame_phase (s : State) (r : Byte) : (s.afterCommand (.endFrame r)).phase = .idle := by
  rw [afterCommand_phase]
  cases s.phase <;> rfl

/-- Settles O56: `in_ready` is the sink's `out_ready`, steps and commands are total, END ends every phase. -/
theorem blockNeverHangs : Obligations.BlockNeverHangs :=
  ⟨fun _ noReset ready => (inReady_of_no_reset noReset).trans ready, step_is_next, exec_is_next,
    fun r s => ⟨_, exec_eq_next _ s, afterCommand_endFrame_phase s r⟩⟩

end Sys2Proof.Machine
end

section
/-! PROOFS. Runs over clock cycles: what a cycle adds to the output stream, the accepted commands of cycles without reset
(R142), the end of a frame and of a run (R141). -/

namespace Sys2Proof.Machine

open Sys2Proof.Safety

/-! One cycle. -/

theorem edgeOf_of_accepted {p : Pins} (acc : accepted p = true) : edgeOf p = .command (decode p.inCmd) := by
  have noReset : p.rst ≠ true := fun rst => by simp [not_accepted_of_reset rst] at acc
  rw [edgeOf, if_neg noReset, if_pos acc]

theorem edgeOf_of_not_accepted {p : Pins} (noReset : p.rst = false) (notAcc : accepted p = false) : edgeOf p = .hold := by
  simp [edgeOf, noReset, notAcc]

theorem step_of_accepted {s : State} (acc : accepted s.pins = true) :
    step s = .next (s.clocked.afterCommand (decode s.pins.inCmd)) := by
  rw [step_on_command (edgeOf_of_accepted acc), exec_eq_next]

theorem emittedIn_of_accepted {p : Pins} (acc : accepted p = true) (s : State) :
    s.emittedIn p = s.emittedBy (decode p.inCmd) := by
  simp [State.emittedIn, State.emittedBy, acc]

theorem emittedIn_of_not_accepted {p : Pins} (notAcc : accepted p = false) (s : State) : s.emittedIn p = [] := by
  simp [State.emittedIn, notAcc]

/-- An accepted command's byte is taken in the very cycle that accepts it (R142). -/
theorem step_output {s t : State} (h : step s = .next t) : t.output = s.output ++ s.emittedIn s.pins := by
  cases acc : accepted s.pins with
  | true =>
    rw [step_of_accepted acc] at h
    cases h
    rw [afterCommand_output, emittedIn_of_accepted acc]
    rfl
  | false =>
    rw [emittedIn_of_not_accepted acc, List.append_nil]
    cases rst : s.pins.rst with
    | true =>
      rw [step_on_reset (edgeOf_of_reset rst)] at h
      cases h
      rfl
    | false =>
      rw [step_on_hold (edgeOf_of_not_accepted rst acc)] at h
      cases h
      rfl

/-! Runs over any cycles. -/

theorem run_withInputs_cons {p : Pins} {ps : List Pins} {s t : State} (h : step (s.withInputs (p :: ps)) = .next t) :
    Host.Core.run Sys2Proof.core (p :: ps).length (s.withInputs (p :: ps)) =
      Host.Core.run Sys2Proof.core ps.length (t.withInputs ps) := by
  rw [withInputs_after_step h]
  exact run_cons_next h ps.length

theorem run_output (ps : List Pins) (s : State) :
    ∃ t, Host.Core.run Sys2Proof.core ps.length (s.withInputs ps) = .next t ∧
      t.output = s.output ++ emittedOver ps s := by
  induction ps generalizing s with
  | nil => exact ⟨_, rfl, (List.append_nil _).symm⟩
  | cons p ps ih =>
    obtain ⟨u, hu⟩ := step_is_next (s.withInputs (p :: ps))
    obtain ⟨t, run, output⟩ := ih u
    have first : u.output = s.output ++ s.emittedIn p := step_output hu
    exact ⟨t, (run_withInputs_cons hu).trans run, by rw [output, first, emittedOver_cons_next hu, List.append_assoc]⟩

/-- Of the three demands on a complete run only the acceptance of its commands can fail (R141). -/
theorem runComplete_iff_accepted (cs : List Instr) (ps : List Pins) (s : State) :
    ∃ t, Host.Core.run Sys2Proof.core ps.length (s.withInputs ps) = .next t ∧
      (RunComplete cs ps s t ↔ acceptedCommands ps = cs) := by
  obtain ⟨t, run, output⟩ := run_output ps s
  exact ⟨t, run, fun ⟨_, accepted, _⟩ => accepted, fun accepted => ⟨run, accepted, output⟩⟩

/-! Runs over cycles without reset: the machine does what the accepted commands do (R142, R144). -/

theorem acceptedCommands_append (ps qs : List Pins) :
    acceptedCommands (ps ++ qs) = acceptedCommands ps ++ acceptedCommands qs := by
  simp [acceptedCommands]

theorem acceptedCommands_singleton (p : Pins) :
    acceptedCommands [p] = if accepted p then [decode p.inCmd] else [] := by
  cases acc : accepted p <;> simp [acceptedCommands, acc]

theorem afterCommands_with_pins (s : State) (cs : List Instr) (ps : List Pins) (n : Nat) :
    State.afterCommands { s with inputs := ps, ticks := n } cs = { s.afterCommands cs with inputs := ps, ticks := n } :=
  Host.Outcome.next.inj <|
    (runCommands_eq_next cs _).symm.trans (runCommands_with_pins (runCommands_eq_next cs s) ps n)

theorem step_of_no_reset {p : Pins} (noReset : p.rst = false) (rest : List Pins) (s : State) :
    step (s.withInputs (p :: rest)) =
      .next { s.afterCommands (acceptedCommands [p]) with inputs := rest, ticks := s.ticks + 1 } := by
  rw [acceptedCommands_singleton]
  cases acc : accepted p with
  | true =>
    rw [step_of_accepted (s := s.withInputs (p :: rest)) acc]
    exact congrArg _ (afterCommands_with_pins s [decode p.inCmd] rest (s.ticks + 1))
  | false => exact step_on_hold (edgeOf_of_not_accepted noReset acc)

theorem run_of_no_reset {ps : List Pins} (noReset : ∀ p ∈ ps, p.rst = false) (rest : List Pins) (s : State) :
    Host.Core.run Sys2Proof.core ps.length (s.withInputs (ps ++ rest)) =
      .next { s.afterCommands (acceptedCommands ps) with inputs := rest, ticks := s.ticks + ps.length } := by
  induction ps generalizing s with
  | nil => rfl
  | cons p ps ih =>
    obtain ⟨noResetHere, noResetLater⟩ := List.forall_mem_cons.mp noReset
    have first := step_of_no_reset noResetHere (ps ++ rest) s
    rw [List.length_cons, List.cons_append, run_cons_next first, ← withInputs_after_step first, ih noResetLater,
      afterCommands_with_pins, ← State.afterCommands_append, ← acceptedCommands_append, Nat.add_right_comm, Nat.add_assoc]
    rfl

/-! The end of a frame (R141). -/

theorem endFrame_of_completesFrame {s : State} {p : Pins} (h : s.completesFrame p = true) :
    accepted p = true ∧ ∃ r, decode p.inCmd = .endFrame r := by
  unfold State.completesFrame at h
  cases i : decode p.inCmd with
  | data b | startl r | startr q => simp [i] at h
  | endFrame r =>
    rw [i, Bool.and_true, Bool.and_eq_true] at h
    obtain ⟨-, acc⟩ := h
    exact ⟨acc, r, rfl⟩

theorem step_of_completesFrame {s : State} {p : Pins} (pins : s.pins = p) (h : s.completesFrame p = true) :
    ∃ t, step s = .next t ∧ Quiescent t := by
  subst pins
  obtain ⟨acc, r, i⟩ := endFrame_of_completesFrame h
  refine ⟨_, step_of_accepted acc, ?_⟩
  rw [i]
  exact (phase_eq_idle_iff _).mp (afterCommand_endFrame_phase s.clocked r)

/-! A quiescent block with nothing offered (R141, R145). -/

theorem holdv_of_quiescent {s : State} (inv : ControlInv s) (quiet : Quiescent s) : s.holdv = false := by
  refine Bool.eq_false_of_not_eq_true fun held => ?_
  obtain ⟨busy, -⟩ := inv held
  exact Bool.false_ne_true (quiet.symm.trans busy)

theorem outValid_of_not_offered {p : Pins} (notOffered : p.inValid = false) (s : State) : s.outValid p = false := by
  simp [State.outValid, notOffered]

theorem acceptedCommands_of_not_offered {ps : List Pins} (notOffered : ∀ p ∈ ps, p.inValid = false) :
    acceptedCommands ps = [] := by
  simp +contextual [acceptedCommands, accepted, notOffered]

theorem run_of_not_offered {ps : List Pins} (noReset : ∀ p ∈ ps, p.rst = false)
    (notOffered : ∀ p ∈ ps, p.inValid = false) (s : State) :
    Host.Core.run Sys2Proof.core ps.length (s.withInputs ps) =
      .next { s with inputs := [], ticks := s.ticks + ps.length } := by
  have run := run_of_no_reset noReset [] s
  rwa [List.append_nil, acceptedCommands_of_not_offered notOffered, State.afterCommands_nil] at run

/-! Every command list has a complete run from every state: offer each command to a ready sink. -/

theorem decode_encode (i : Instr) : decode (encode i) = i := by
  cases i with
  | data b => exact decode_append_data b
  | startl r => exact decode_append_startl r
  | startr p => exact decode_append_startr p
  | endFrame r => exact decode_append_endFrame r

/-- The pins of a cycle that offers the command's word, with a sink that is ready and no reset. -/
def offering (i : Instr) : Pins := ⟨false, true, encode i, true⟩

theorem acceptedCommands_offering (cs : List Instr) : acceptedCommands (cs.map offering) = cs := by
  induction cs with
  | nil => rfl
  | cons i cs ih =>
    have first : acceptedCommands [offering i] = [i] := congrArg (fun j => [j]) (decode_encode i)
    calc acceptedCommands ([offering i] ++ cs.map offering)
      _ = [i] ++ cs := by rw [acceptedCommands_append, first, ih]

theorem runComplete_offering (cs : List Instr) (s : State) :
    RunComplete cs (cs.map offering) s { s.afterCommands cs with inputs := [], ticks := s.ticks + cs.length } := by
  have noReset : ∀ p ∈ cs.map offering, p.rst = false := by simp [offering]
  have run := run_of_no_reset noReset [] s
  rw [List.append_nil, acceptedCommands_offering, List.length_map] at run
  obtain ⟨t, reached, complete⟩ := runComplete_iff_accepted cs (cs.map offering) s
  rw [List.length_map, run] at reached
  cases reached
  exact complete.mpr (acceptedCommands_offering cs)

/-- A stray DATA is a complete run that ends quiescent with SEQ recorded (R108, R141). -/
theorem exists_complete_run_with_fault {s : State} (idle : s.busy = false) :
    ∃ cs ps t, RunComplete cs ps s t ∧ Quiescent t ∧ ¬ NoFault t := by
  have wrong : s.phase.wrongFor (.data 0) = true := by rw [wrongFor_data, idle, Bool.not_false]
  have complete := runComplete_offering [.data 0] s
  rw [State.afterCommands_cons, afterCommand_of_wrong wrong] at complete
  exact ⟨_, _, _, complete, idle, fun ⟨noSeq, _⟩ => Bool.false_ne_true noSeq.symm⟩

/-- The first byte of a left frame stays in `HOLD` until the next command of the frame (R98, R141). -/
theorem exists_complete_run_holding_byte {s : State} (idle : s.busy = false) :
    ∃ cs ps t, RunComplete cs ps s t ∧ ¬ Quiescent t ∧ t.holdv = true ∧ t.output = s.output := by
  have opened : s.afterCommand (.startl 0) = s.openFrame .left :=
    afterCommand_startl_of_idle ((phase_eq_idle_iff s).mpr idle) 0
  have captured : (s.openFrame .left).afterCommand (.data 0) = (s.openFrame .left).captureFirst 0 :=
    afterCommand_data_of_leftEmpty rfl 0
  have complete := runComplete_offering [.startl 0, .data 0] s
  rw [State.afterCommands_cons, State.afterCommands_cons, opened, captured] at complete
  exact ⟨_, _, _, complete, Bool.false_ne_true.symm, rfl, rfl⟩

/-- Settles O57: emission is part of acceptance, so acceptance completes a run; END leads to IDLE, where nothing is emitted
without an offer; the two disclaimers are a stray DATA and a left frame left open after its first byte. -/
theorem runIsCompleteWhenAllCommandsAreAccepted : Obligations.RunIsCompleteWhenAllCommandsAreAccepted := by
  refine ⟨runComplete_iff_accepted, fun s p rest inputs => step_of_completesFrame (pins_of_inputs inputs),
    fun s ps inv quiet silent => ?_,
    fun s idle => ⟨exists_complete_run_with_fault idle, exists_complete_run_holding_byte idle⟩⟩
  have noReset : ∀ p ∈ ps, p.rst = false := fun p hp => (silent p hp).left
  have notOffered : ∀ p ∈ ps, p.inValid = false := fun p hp => (silent p hp).right
  exact ⟨holdv_of_quiescent inv quiet, fun p hp => outValid_of_not_offered (notOffered p hp) s, _,
    run_of_not_offered noReset notOffered s, rfl, quiet⟩

end Sys2Proof.Machine
end

section
/-! PROOFS. What a command can do, said once: the cells of the phase table (R95) as an inversion of `exec`. -/

namespace Sys2Proof.Machine

/-! The fields that END in a right frame leaves as they were (R94). -/

@[simp] theorem State.endRight_hold (s : State) : s.endRight.hold = s.hold := by
  unfold State.endRight; split <;> rfl

@[simp] theorem State.endRight_wrap (s : State) : s.endRight.wrap = s.wrap := by
  unfold State.endRight; split <;> rfl

@[simp] theorem State.endRight_carry (s : State) : s.endRight.carry = s.carry := by
  unfold State.endRight; split <;> rfl

@[simp] theorem State.endRight_inputs (s : State) : s.endRight.inputs = s.inputs := by
  unfold State.endRight; split <;> rfl

@[simp] theorem State.endRight_ticks (s : State) : s.endRight.ticks = s.ticks := by
  unfold State.endRight; split <;> rfl

/-- The command `i` takes the state `s` to `t`: one case per meaningful cell of R95, and one for the cells marked SEQ. -/
inductive CommandEffect (s : State) : Instr → State → Prop
  | discarded {i : Instr}
      (stray : (s.busy = true ∧ ∃ r, i = .startl r ∨ i = .startr r) ∨
        (s.busy = false ∧ ∃ r, i = .data r ∨ i = .endFrame r)) :
      CommandEffect s i s.discardWithSeq
  | openLeft (idle : s.busy = false) (r : Byte) : CommandEffect s (.startl r) (s.openFrame .left)
  | openRight (idle : s.busy = false) (p : Byte) :
      CommandEffect s (.startr p) ((s.openFrame .right).loadWrap (wrapBitOf p))
  | dataFirst (busy : s.busy = true) (dir : s.dir = .left) (empty : s.holdv = false) (b : Byte) :
      CommandEffect s (.data b) (s.captureFirst b)
  | dataLeft (busy : s.busy = true) (dir : s.dir = .left) (held : s.holdv = true) (b : Byte) :
      CommandEffect s (.data b) ((s.emit (shl1c s.hold (msb b)).1).holdByte b)
  | dataRight (busy : s.busy = true) (dir : s.dir = .right) (b : Byte) :
      CommandEffect s (.data b) ((s.emit (shr1c b s.carry).1).setCarry (lsb b))
  | endEmpty (busy : s.busy = true) (dir : s.dir = .left) (empty : s.holdv = false) (r : Byte) :
      CommandEffect s (.endFrame r) s.dropHeld.closeFrame
  | endHeld (busy : s.busy = true) (dir : s.dir = .left) (held : s.holdv = true) (r : Byte) :
      CommandEffect s (.endFrame r) (s.emit (shl1c s.hold s.wrap).1).dropHeld.closeFrame
  | endRight (busy : s.busy = true) (dir : s.dir = .right) (r : Byte) : CommandEffect s (.endFrame r) s.endRight

/-- Each case is a cell of the phase table. -/
theorem CommandEffect.afterCommand_eq {s t : State} {i : Instr} (h : CommandEffect s i t) : s.afterCommand i = t := by
  cases h with
  | discarded stray => exact afterCommand_of_wrong (wrongFor_of_stray stray.symm)
  | openLeft idle r => exact afterCommand_startl_of_idle ((phase_eq_idle_iff s).mpr idle) r
  | openRight idle p => exact afterCommand_startr_of_idle ((phase_eq_idle_iff s).mpr idle) p
  | dataFirst busy dir empty b => exact afterCommand_data_of_leftEmpty ((phase_eq_leftEmpty_iff s).mpr ⟨busy, dir, empty⟩) b
  | dataLeft busy dir held b => exact afterCommand_data_of_leftHeld ((phase_eq_leftHeld_iff s).mpr ⟨busy, dir, held⟩) b
  | dataRight busy dir b => exact afterCommand_data_of_right ((phase_eq_right_iff s).mpr ⟨busy, dir⟩) b
  | endEmpty busy dir empty r =>
    exact afterCommand_endFrame_of_leftEmpty ((phase_eq_leftEmpty_iff s).mpr ⟨busy, dir, empty⟩) r
  | endHeld busy dir held r => exact afterCommand_endFrame_of_leftHeld ((phase_eq_leftHeld_iff s).mpr ⟨busy, dir, held⟩) r
  | endRight busy dir r => exact afterCommand_endFrame_of_right ((phase_eq_right_iff s).mpr ⟨busy, dir⟩) r

/-- Some case applies to every command in every state. -/
theorem exists_commandEffect (s : State) (i : Instr) : ∃ t, CommandEffect s i t := by
  cases busy : s.busy with
  | false =>
    cases i with
    | data b => exact ⟨_, .discarded (.inr ⟨busy, b, .inl rfl⟩)⟩
    | startl r => exact ⟨_, .openLeft busy r⟩
    | startr p => exact ⟨_, .openRight busy p⟩
    | endFrame r => exact ⟨_, .discarded (.inr ⟨busy, r, .inr rfl⟩)⟩
  | true =>
    cases i with
    | startl r => exact ⟨_, .discarded (.inl ⟨busy, r, .inl rfl⟩)⟩
    | startr p => exact ⟨_, .discarded (.inl ⟨busy, p, .inr rfl⟩)⟩
    | data b =>
      cases dir : s.dir with
      | right => exact ⟨_, .dataRight busy dir b⟩
      | left =>
        cases held : s.holdv with
        | false => exact ⟨_, .dataFirst busy dir held b⟩
        | true => exact ⟨_, .dataLeft busy dir held b⟩
    | endFrame r =>
      cases dir : s.dir with
      | right => exact ⟨_, .endRight busy dir r⟩
      | left =>
        cases held : s.holdv with
        | false => exact ⟨_, .endEmpty busy dir held r⟩
        | true => exact ⟨_, .endHeld busy dir held r⟩

theorem afterCommand_effect (s : State) (i : Instr) : CommandEffect s i (s.afterCommand i) := by
  obtain ⟨t, effect⟩ := exists_commandEffect s i
  rwa [effect.afterCommand_eq]

theorem exec_effect {i : Instr} {s t : State} (h : exec i s = .next t) : CommandEffect s i t :=
  afterCommand_of_exec h ▸ afterCommand_effect s i

end Sys2Proof.Machine
end

section
/-! PROOFS. The control invariant (R26 (a), (b)). -/

namespace Sys2Proof.Machine

open Sys2Proof.Safety

theorem controlInv_of_empty {s : State} (empty : s.holdv = false) : ControlInv s :=
  fun held => absurd (empty.symm.trans held) Bool.false_ne_true

/-- A byte is taken into `HOLD` in a left frame only, and END of a left frame lets it go (R94, R98). -/
theorem CommandEffect.keeps_controlInv {s t : State} {i : Instr} (h : CommandEffect s i t) (inv : ControlInv s) :
    ControlInv t := by
  cases h with
  | discarded | dataRight => exact inv
  | openLeft | openRight | endEmpty | endHeld => exact controlInv_of_empty rfl
  | dataFirst busy dir | dataLeft busy dir => exact fun _ => ⟨busy, dir⟩
  | endRight busy dir r =>
    refine controlInv_of_empty (Bool.eq_false_of_not_eq_true fun held => ?_)
    obtain ⟨-, left⟩ := inv (s.endRight_holdv.symm.trans held)
    exact Direction.noConfusion (left.symm.trans dir)

/-- Settles O32: a reset edge leaves no byte held, a command keeps the invariant case by case, an idle cycle changes nothing. -/
theorem everyStepKeepsTheControlInvariant : Obligations.EveryStepKeepsTheControlInvariant := by
  intro s t inv next
  rcases edgeOf_cases s.pins with ⟨-, edge⟩ | ⟨-, -, -, edge⟩ | ⟨-, -, edge⟩
  · rw [step_on_reset edge] at next
    cases next
    exact controlInv_of_empty rfl
  · rw [step_on_command edge] at next
    have clocked : ControlInv s.clocked := inv
    exact (exec_effect next).keeps_controlInv clocked
  · rw [step_on_hold edge] at next
    cases next
    exact inv

/-- Settles O33: nothing is held after reset. -/
theorem resetHasTheControlInvariant : Obligations.ResetHasTheControlInvariant :=
  ⟨controlInv_of_empty rfl, fun _ _ _ => controlInv_of_empty rfl⟩

end Sys2Proof.Machine
end

section
/-! PROOFS. Words and commands, one to one (R51, R53). -/

namespace Sys2Proof.Machine

theorem decode_operand (w : CmdWord) : (decode w).operand = dataField w := by
  unfold decode
  split <;> rfl

theorem encode_decode (w : CmdWord) : encode (decode w) = w := by
  rw [encode, decode_op, decode_operand, opField_append_dataField]

/-- Settles O2: both round trips. -/
theorem decodeAndEncodeAreInverse : Obligations.DecodeAndEncodeAreInverse := by
  intro i w
  constructor
  · rintro rfl
    exact decode_encode i
  · rintro rfl
    exact encode_decode w

/-- The `op` stands above the eight bits of the operand (R51). -/
theorem encode_toNat (i : Instr) : (encode i).toNat = i.op.toNat * 256 + i.operand.toNat := by
  rw [encode, BitVec.toNat_append, ← Nat.shiftLeft_add_eq_or_of_lt i.operand.isLt, Nat.shiftLeft_eq]

/-- Settles O4: `op` of each command by the opcode map. -/
theorem commandWordIsOpTimes256PlusData : Obligations.CommandWordIsOpTimes256PlusData := by
  intro i
  rw [encode_toNat]
  cases i <;> rfl

/-- Settles O1: the words by evaluation. -/
theorem specWordsDecodeToTheirCommands : Obligations.SpecWordsDecodeToTheirCommands := by
  unfold Obligations.SpecWordsDecodeToTheirCommands
  decide

end Sys2Proof.Machine
end

section
/-! PROOFS. The block from reset against the frame-at-once machine (R101 to R106), and a left frame undone by a right one
(R74). -/

namespace Sys2Proof.Machine

theorem tracks_resetWith (h : Byte) (w c : Bool) : Tracks FrameMachine.start (State.resetWith h w c) where
  held := frameHeld_resetWith h w c
  output := rfl
  errSeq := rfl
  errWrap := rfl

theorem FrameHeld.idle_iff {f : OpenFrame} {s : State} (h : FrameHeld f s) : s.busy = false ↔ f = .none := by
  cases f with
  | none => exact iff_of_true h.left rfl
  | left bs | right p bs =>
    obtain ⟨busy, -⟩ := h
    exact iff_of_false (ne_false_of_eq_true busy) OpenFrame.noConfusion

/-- Settles O36: the block tracks the machine from reset on, command by command. -/
theorem streamingBlockRefinesFrameAtOnceMachine : Obligations.StreamingBlockRefinesFrameAtOnceMachine := by
  intro cs h w c
  obtain ⟨held, output, errSeq, errWrap⟩ := (tracks_resetWith h w c).afterCommands cs
  exact ⟨_, runCommands_eq_next cs _, output, errSeq, errWrap, held.idle_iff⟩

/-- Settles O43: each frame emits its rotation, and the right rotation undoes the left one. -/
theorem leftThenRightFrameGivesTheBytesBack : Obligations.LeftThenRightFrameGivesTheBytesBack := by
  intro S s idle
  obtain ⟨⟨idle₁, -⟩, output₁, seq₁, wrap₁⟩ := tracks_rotl idle S
  obtain ⟨⟨idle₂, -⟩, output₂, seq₂, wrap₂⟩ := tracks_rotr idle₁ (rotate .left S)
  rw [← State.afterCommands_append] at idle₂ output₂ seq₂ wrap₂
  refine ⟨_, runCommands_eq_next _ s, ?_, idle₂, seq₂.trans seq₁, wrap₂.trans wrap₁⟩
  simpa [leftInverse_rotate_right_left S, output₁] using output₂

end Sys2Proof.Machine
end

section
/-! PROOFS. Scratch no step can read stays invisible (R29, R30). -/

namespace Sys2Proof.Machine

open Sys2Proof.Safety

/-- A command does the same to two states the host cannot tell apart: each case reads only what they agree on. -/
theorem CommandEffect.sameToTheHost {s t s' : State} {i : Instr} (effect : CommandEffect s i s') (same : SameToTheHost s t) :
    ∃ t', CommandEffect t i t' ∧ SameToTheHost s' t' := by
  obtain ⟨busyEq, dirEq, holdvEq, seqEq, wrapEq, output, inputs, left, right⟩ := same
  cases effect with
  | discarded stray =>
    exact ⟨_, .discarded (busyEq ▸ stray), busyEq, dirEq, holdvEq, rfl, wrapEq, output, inputs, left, right⟩
  | openLeft idle r =>
    exact ⟨_, .openLeft (busyEq ▸ idle) r, rfl, rfl, rfl, seqEq, wrapEq, output, inputs, nofun, nofun⟩
  | openRight idle p =>
    exact ⟨_, .openRight (busyEq ▸ idle) p, rfl, rfl, rfl, seqEq, wrapEq, output, inputs, nofun, fun _ _ => ⟨rfl, rfl⟩⟩
  | dataFirst busy dir empty b =>
    refine ⟨_, .dataFirst (busyEq ▸ busy) (dirEq ▸ dir) (holdvEq ▸ empty) b, busyEq, dirEq, rfl, seqEq, wrapEq, output,
      inputs, fun _ => ⟨rfl, rfl⟩, fun _ isRight => ?_⟩
    exact Direction.noConfusion (dir.symm.trans isRight)
  | dataLeft busy dir held b =>
    obtain ⟨hold, wrap⟩ := left held
    refine ⟨_, .dataLeft (busyEq ▸ busy) (dirEq ▸ dir) (holdvEq ▸ held) b, busyEq, dirEq, holdvEq, seqEq, wrapEq, ?_,
      inputs, fun _ => ⟨rfl, wrap⟩, right⟩
    simp [output, hold]
  | dataRight busy dir b =>
    obtain ⟨wrap, carry⟩ := right busy dir
    refine ⟨_, .dataRight (busyEq ▸ busy) (dirEq ▸ dir) b, busyEq, dirEq, holdvEq, seqEq, wrapEq, ?_, inputs, left,
      fun _ _ => ⟨wrap, rfl⟩⟩
    simp [output, carry]
  | endEmpty busy dir empty r =>
    exact ⟨_, .endEmpty (busyEq ▸ busy) (dirEq ▸ dir) (holdvEq ▸ empty) r, rfl, dirEq, rfl, seqEq, wrapEq, output, inputs,
      nofun, nofun⟩
  | endHeld busy dir held r =>
    obtain ⟨hold, wrap⟩ := left held
    refine ⟨_, .endHeld (busyEq ▸ busy) (dirEq ▸ dir) (holdvEq ▸ held) r, rfl, dirEq, rfl, seqEq, wrapEq, ?_, inputs,
      nofun, nofun⟩
    simp [output, hold, wrap]
  | endRight busy dir r =>
    obtain ⟨wrap, carry⟩ := right busy dir
    refine ⟨_, .endRight (busyEq ▸ busy) (dirEq ▸ dir) r, ?_⟩
    simpa [SameToTheHost, wrap, carry, wrapEq] using ⟨dirEq, holdvEq, seqEq, output, inputs, fun held => (left held).left⟩

theorem sameToTheHost_afterCommand {s t : State} (same : SameToTheHost s t) (i : Instr) :
    SameToTheHost (s.afterCommand i) (t.afterCommand i) := by
  obtain ⟨t', effect, same'⟩ := (afterCommand_effect s i).sameToTheHost same
  rwa [effect.afterCommand_eq]

theorem sameToTheHost_afterCommands {s t : State} (same : SameToTheHost s t) (cs : List Instr) :
    SameToTheHost (s.afterCommands cs) (t.afterCommands cs) := by
  induction cs generalizing s t with
  | nil => exact same
  | cons i cs ih => exact ih (sameToTheHost_afterCommand same i)

/-! What the host sees of two such states. -/

theorem status_eq_of_same {s t : State} (same : SameToTheHost s t) : s.status = t.status := by
  obtain ⟨busy, dir, -, errSeq, errWrap, -⟩ := same
  rw [State.status, State.status, busy, dir, errSeq, errWrap]

theorem err_eq_of_same {s t : State} (same : SameToTheHost s t) : s.err = t.err := by
  obtain ⟨-, -, -, errSeq, errWrap, -⟩ := same
  rw [State.err, State.err, errSeq, errWrap]

theorem produces_eq_of_same {s t : State} (same : SameToTheHost s t) (i : Instr) : s.produces i = t.produces i := by
  obtain ⟨busy, dir, holdv, -⟩ := same
  rw [produces_eq_op, produces_eq_op, busy, dir, holdv]

/-- A command that produces a byte gives the cell `CARRY` in a right frame, `HOLD` and `WRAP` in a left one that holds a byte
(R90, R99). -/
theorem cellOut_eq_of_same {s t : State} (same : SameToTheHost s t) {i : Instr} (produced : s.produces i = true) :
    s.cellOut i = t.cellOut i := by
  obtain ⟨-, dirEq, -, -, -, -, -, left, right⟩ := same
  rcases (produces_iff s i).mp produced with ⟨⟨b, rfl⟩, busy, dir⟩ | ⟨⟨b, rfl⟩, -, dir, held⟩ | ⟨⟨r, rfl⟩, -, dir, held⟩
  · obtain ⟨-, carry⟩ := right busy dir
    simp [State.cellOut, State.cellByte, State.cellCarry, ← dirEq, dir, carry]
  · obtain ⟨hold, -⟩ := left held
    simp [State.cellOut, State.cellByte, State.cellCarry, ← dirEq, dir, hold]
  · obtain ⟨hold, wrap⟩ := left held
    simp [State.cellOut, State.cellByte, State.cellCarry, ← dirEq, dir, hold, wrap]

theorem outValid_eq_of_same {s t : State} (same : SameToTheHost s t) (p : Pins) : s.outValid p = t.outValid p := by
  rw [State.outValid, State.outValid, produces_eq_of_same same]

theorem produces_of_outValid {s : State} {p : Pins} (valid : s.outValid p = true) : s.produces (decode p.inCmd) = true := by
  simp only [State.outValid, Bool.and_eq_true] at valid
  obtain ⟨-, -, produced⟩ := valid
  exact produced

theorem outData_eq_of_same {s t : State} (same : SameToTheHost s t) {p : Pins} (valid : s.outValid p = true) :
    s.outData p = t.outData p := by
  rw [outData_of_outValid valid, outData_of_outValid (outValid_eq_of_same same p ▸ valid),
    cellOut_eq_of_same same (produces_of_outValid valid)]

/-! The clock edge. -/

theorem pins_eq_of_same {s t : State} (same : SameToTheHost s t) : s.pins = t.pins := by
  obtain ⟨-, -, -, -, -, -, inputs, -⟩ := same
  rw [State.pins, State.pins, inputs]

theorem sameToTheHost_clocked {s t : State} (same : SameToTheHost s t) : SameToTheHost s.clocked t.clocked := by
  obtain ⟨busy, dir, holdv, errSeq, errWrap, output, inputs, left, right⟩ := same
  exact ⟨busy, dir, holdv, errSeq, errWrap, output, congrArg List.tail inputs, left, right⟩

/-- After a reset no step can read the scratch, whatever it holds (R28). -/
theorem sameToTheHost_takeReset {s t : State} (same : SameToTheHost s t) : SameToTheHost s.takeReset t.takeReset := by
  obtain ⟨-, -, -, -, -, output, inputs, -⟩ := same
  exact ⟨rfl, rfl, rfl, rfl, rfl, output, inputs, nofun, nofun⟩

theorem step_on_command_next {s : State} {i : Instr} (h : edgeOf s.pins = .command i) :
    step s = .next (s.clocked.afterCommand i) :=
  (step_on_command h).trans (exec_eq_next i _)

theorem step_sameToTheHost {s t : State} (same : SameToTheHost s t) :
    ∃ s' t', step s = .next s' ∧ step t = .next t' ∧ SameToTheHost s' t' := by
  have pins := pins_eq_of_same same
  rcases edgeOf_cases s.pins with ⟨-, edge⟩ | ⟨-, -, -, edge⟩ | ⟨-, -, edge⟩
  · exact ⟨_, _, step_on_reset edge, step_on_reset (pins ▸ edge), sameToTheHost_clocked (sameToTheHost_takeReset same)⟩
  · exact ⟨_, _, step_on_command_next edge, step_on_command_next (pins ▸ edge),
      sameToTheHost_afterCommand (sameToTheHost_clocked same) _⟩
  · exact ⟨_, _, step_on_hold edge, step_on_hold (pins ▸ edge), sameToTheHost_clocked same⟩

/-- Settles O48: a reset edge hides all scratch, a command reads what the two states agree on, an idle cycle changes nothing;
the ports read no other scratch than the commands. -/
theorem scratchStaysInvisibleAtEveryEdge : Obligations.ScratchStaysInvisibleAtEveryEdge :=
  fun _ _ same => ⟨step_sameToTheHost same, fun p => ⟨outValid_eq_of_same same p, status_eq_of_same same,
    err_eq_of_same same, fun valid => outData_eq_of_same same valid⟩⟩

/-- Two reset states differ only in scratch that no step can read (R28). -/
theorem sameToTheHost_resetWith (h h' : Byte) (w w' c c' : Bool) :
    SameToTheHost (State.resetWith h w c) (State.resetWith h' w' c') :=
  ⟨rfl, rfl, rfl, rfl, rfl, rfl, rfl, nofun, nofun⟩

/-- Settles O47: the two reset states stay alike to the host under every command. -/
theorem unspecifiedResetValuesAreNeverSeen : Obligations.UnspecifiedResetValuesAreNeverSeen := by
  intro cs h h' w w' c c'
  have same := sameToTheHost_afterCommands (sameToTheHost_resetWith h h' w w' c c') cs
  have ⟨_, _, _, _, _, output, _⟩ := same
  exact ⟨_, _, runCommands_eq_next cs _, runCommands_eq_next cs _, output, status_eq_of_same same, err_eq_of_same same⟩

end Sys2Proof.Machine
end

section
/-! PROOFS. Steps and the handshake (R142, R145): what a cycle accepts, changes and moves. -/

namespace Sys2Proof.Machine

theorem afterCommand_ticks (s : State) (i : Instr) : (s.afterCommand i).ticks = s.ticks := by
  obtain ⟨t, effect⟩ := exists_commandEffect s i
  rw [effect.afterCommand_eq]
  cases effect with
  | endRight => exact s.endRight_ticks
  | _ => rfl

theorem step_ticks {s t : State} (h : step s = .next t) : t.ticks = s.ticks + 1 := by
  rcases edgeOf_cases s.pins with ⟨-, edge⟩ | ⟨-, -, -, edge⟩ | ⟨-, -, edge⟩
  · rw [step_on_reset edge] at h
    cases h
    rfl
  · rw [step_on_command_next edge] at h
    cases h
    exact afterCommand_ticks s.clocked _
  · rw [step_on_hold edge] at h
    cases h
    rfl

theorem accepted_iff {p : Pins} (noReset : p.rst = false) : accepted p = true ↔ p.inValid = true ∧ p.outReady = true := by
  rw [accepted, inReady_of_no_reset noReset, Bool.and_eq_true]

theorem clocked_of_inputs {s : State} {p : Pins} {rest : List Pins} (inputs : s.inputs = p :: rest) :
    s.clocked = { s with inputs := rest, ticks := s.ticks + 1 } := by
  rw [State.clocked, inputs, List.tail_cons]

/-- Settles O50: an accepted word's edge is `exec` of its command, and every edge is one cycle. -/
theorem stepRunsTheDecodedCommand : Obligations.StepRunsTheDecodedCommand := by
  refine ⟨fun s p rest inputs noReset valid ready => ?_, fun s t next => ⟨step_inputs next, step_ticks next⟩⟩
  have edge : edgeOf s.pins = .command (decode p.inCmd) := by
    rw [pins_of_inputs inputs, edgeOf_of_accepted ((accepted_iff noReset).mpr ⟨valid, ready⟩)]
  rw [step_on_command edge, clocked_of_inputs inputs]

/-- Settles O52: neither a cycle that accepts nothing nor one past the host's pins has an edge that does anything. -/
theorem nothingHappensWithoutACommand : Obligations.NothingHappensWithoutACommand := by
  constructor
  · intro s p rest inputs noReset silent
    have notAccepted : accepted p = false := by
      refine Bool.eq_false_of_not_eq_true fun acc => ?_
      obtain ⟨valid, ready⟩ := (accepted_iff noReset).mp acc
      simp [valid, ready] at silent
    have edge : edgeOf s.pins = .hold := by rw [pins_of_inputs inputs, edgeOf_of_not_accepted noReset notAccepted]
    rw [step_on_hold edge, clocked_of_inputs inputs]
  · intro s inputs
    have edge : edgeOf s.pins = .hold := by rw [State.pins, inputs]; rfl
    rw [step_on_hold edge, State.clocked, inputs, List.tail_nil]

/-- Outside reset the byte of the accepted command is the one on `out_data`, in the cycles where both sides of the output
handshake are 1 (R142). -/
theorem emittedIn_eq_outData {p : Pins} (noReset : p.rst = false) (s : State) :
    s.emittedIn p = if s.outValid p = true ∧ p.outReady = true then [s.outData p] else [] := by
  have moved : (accepted p && s.produces (decode p.inCmd)) = true ↔ s.outValid p = true ∧ p.outReady = true := by
    simp [accepted, inReady, State.outValid, noReset, and_right_comm]
  by_cases moves : s.outValid p = true ∧ p.outReady = true
  · rw [if_pos moves, State.emittedIn, if_pos (moved.mpr moves), outData_of_outValid moves.left]
  · rw [if_neg moves, State.emittedIn, if_neg (mt moved.mp moves)]

/-- Settles O53: the ports by their equations, and what a step adds to the stream by the handshake. -/
theorem handshakeMovesTheEmittedByte : Obligations.HandshakeMovesTheEmittedByte := by
  intro s p rest inputs noReset
  obtain ⟨t, next⟩ := step_is_next s
  refine ⟨inReady_of_no_reset noReset, by rw [State.outValid, noReset, Bool.not_false, Bool.true_and],
    accepted_iff noReset, t, next, by rw [step_inputs next, inputs, List.tail_cons], ?_⟩
  rw [step_output next, pins_of_inputs inputs, emittedIn_eq_outData noReset]

/-- Settles O55: cycles without reset do what their accepted commands do. -/
theorem onlyTheAcceptedCommandsMatter : Obligations.OnlyTheAcceptedCommandsMatter := by
  constructor
  · intro ps rest s inputs noReset
    refine ⟨_, runCommands_eq_next _ s, ?_⟩
    rw [← run_of_no_reset noReset rest s, ← inputs]
    rfl
  · intro ps qs s noResetPs noResetQs same
    have runPs := run_of_no_reset noResetPs [] s
    have runQs := run_of_no_reset noResetQs [] s
    rw [List.append_nil] at runPs runQs
    exact ⟨_, _, runPs, runQs, by rw [same]⟩

end Sys2Proof.Machine
end

section
/-! PROOFS. Frames: what each command leaves as it was, and who writes each element (R15). -/

namespace Sys2Proof.Machine

/-- Settles O21: STARTL and STARTR open a frame from idle and are discarded inside one. -/
theorem startCommandsLeaveTheRest : Obligations.StartCommandsLeaveTheRest := by
  rintro i r s t (rfl | rfl) next
  · cases exec_effect next with
    | discarded stray =>
      have busy : s.busy = true := by simpa using stray
      simp [busy]
    | openLeft idle => simp [idle]
  · cases exec_effect next with
    | discarded stray =>
      have busy : s.busy = true := by simpa using stray
      simp [busy]
    | openRight idle => simp [idle]

/-- Settles O22: END closes a frame, of which only a left one that holds a byte has one to emit, and is discarded while
idle. -/
theorem endLeavesTheRest : Obligations.EndLeavesTheRest := by
  intro r s t next
  cases exec_effect next with
  | discarded stray =>
    have idle : s.busy = false := by simpa using stray
    simp [idle]
  | endEmpty busy dir => simp [busy, dir]
  | endHeld busy dir held => simp [busy, dir, held]
  | endRight busy dir => simp [busy, dir]

/-- Settles O23: DATA is held or emitted inside a frame, by what the frame holds, and is discarded while idle. -/
theorem dataLeavesTheRest : Obligations.DataLeavesTheRest := by
  intro b s t next
  cases exec_effect next with
  | discarded stray =>
    have idle : s.busy = false := by simpa using stray
    simp [idle]
  | dataFirst busy dir empty => simp [busy, dir, empty]
  | dataLeft busy dir => simp [busy, dir]
  | dataRight busy dir => simp [busy, dir]

/-- Settles O24: element by element, no case but those named writes it. -/
theorem onlyTheNamedCommandsWriteEachElement : Obligations.OnlyTheNamedCommandsWriteEachElement := by
  intro i s t next
  cases exec_effect next with
  | discarded stray => simpa using fun _ => stray
  | openLeft idle r => simp [idle]
  | openRight idle p => simp [idle]
  | dataFirst busy dir empty b => simp [busy, dir, empty]
  | dataLeft busy dir => simp [busy, dir]
  | dataRight busy dir b => simp [busy, dir]
  | endEmpty busy dir empty r => simp [busy, dir]
  | endHeld busy dir held r => simp [busy, dir]
  | endRight busy dir r => simp [busy, dir]

end Sys2Proof.Machine
end

section
/-! PROOFS. The sticky flags: no command clears one, and none reads one (R22, R119). -/

namespace Sys2Proof.Machine

theorem FlagsKept.trans {s t u : State} (st : FlagsKept s t) (tu : FlagsKept t u) : FlagsKept s u := by
  obtain ⟨stSeq, stWrap⟩ := st
  obtain ⟨tuSeq, tuWrap⟩ := tu
  exact ⟨tuSeq ∘ stSeq, tuWrap ∘ stWrap⟩

theorem afterCommands_keeps_flags (s : State) (cs : List Instr) : FlagsKept s (s.afterCommands cs) := by
  induction cs generalizing s with
  | nil => exact .of_eq rfl rfl
  | cons i cs ih => exact (afterCommand_keeps_flags s i).trans (ih (s.afterCommand i))

/-- Settles O34: step by step and command by command. -/
theorem flagsAreStickyUntilReset : Obligations.FlagsAreStickyUntilReset := by
  constructor
  · intro s t next noReset
    refine step_keeps_flags (Bool.eq_false_of_not_eq_true fun rst => ?_) next
    obtain ⟨p, rest, inputs, rst⟩ := exists_reset_pins rst
    exact Bool.false_ne_true ((noReset p rest inputs).symm.trans rst)
  · intro cs s t next
    rw [runCommands_eq_next] at next
    cases next
    exact afterCommands_keeps_flags s cs

/-- The state with other flags. -/
def State.withFlags (s : State) (es ew : Bool) : State := { s with errSeq := es, errWrap := ew }

theorem endRight_withFlags (s : State) (es ew : Bool) :
    (s.withFlags es ew).endRight = s.endRight.withFlags es (ew || (s.carry != s.wrap)) := by
  by_cases pass : s.carry = s.wrap
  · rw [State.endRight_of_match pass, State.endRight_of_match (s := s.withFlags es ew) pass]
    simp [pass, State.withFlags, State.closeFrame]
  · rw [State.endRight_of_mismatch pass, State.endRight_of_mismatch (s := s.withFlags es ew) pass]
    simp [pass, State.withFlags, State.closeFrame, State.raiseWrap]

/-- With other flags the same case applies, with the same effect on all else. -/
theorem CommandEffect.withFlags {s t : State} {i : Instr} (effect : CommandEffect s i t) (es ew : Bool) :
    ∃ t', CommandEffect (s.withFlags es ew) i t' ∧ ∃ fs fw, t' = t.withFlags fs fw := by
  cases effect with
  | discarded stray => exact ⟨_, .discarded stray, true, ew, rfl⟩
  | openLeft idle r => exact ⟨_, .openLeft (s := s.withFlags es ew) idle r, es, ew, rfl⟩
  | openRight idle p => exact ⟨_, .openRight (s := s.withFlags es ew) idle p, es, ew, rfl⟩
  | dataFirst busy dir empty b => exact ⟨_, .dataFirst (s := s.withFlags es ew) busy dir empty b, es, ew, rfl⟩
  | dataLeft busy dir held b => exact ⟨_, .dataLeft (s := s.withFlags es ew) busy dir held b, es, ew, rfl⟩
  | dataRight busy dir b => exact ⟨_, .dataRight (s := s.withFlags es ew) busy dir b, es, ew, rfl⟩
  | endEmpty busy dir empty r => exact ⟨_, .endEmpty (s := s.withFlags es ew) busy dir empty r, es, ew, rfl⟩
  | endHeld busy dir held r => exact ⟨_, .endHeld (s := s.withFlags es ew) busy dir held r, es, ew, rfl⟩
  | endRight busy dir r => exact ⟨_, .endRight (s := s.withFlags es ew) busy dir r, es, _, endRight_withFlags s es ew⟩

theorem afterCommands_withFlags (s : State) (es ew : Bool) (cs : List Instr) :
    ∃ fs fw, (s.withFlags es ew).afterCommands cs = (s.afterCommands cs).withFlags fs fw := by
  induction cs generalizing s es ew with
  | nil => exact ⟨es, ew, rfl⟩
  | cons i cs ih =>
    obtain ⟨t, effect, fs, fw, rfl⟩ := (afterCommand_effect s i).withFlags es ew
    rw [State.afterCommands_cons, effect.afterCommand_eq]
    exact ih (s.afterCommand i) fs fw

/-- Settles O29: the flags steer no command, and they are sticky. -/
theorem noCommandReadsTheFlags : Obligations.NoCommandReadsTheFlags := by
  intro cs s t es ew next
  rw [runCommands_eq_next] at next
  cases next
  obtain ⟨fs, fw, same⟩ := afterCommands_withFlags s es ew cs
  have kept := afterCommands_keeps_flags (s.withFlags es ew) cs
  rw [same] at kept
  exact ⟨fs, fw, (runCommands_eq_next cs _).trans (congrArg _ same), kept⟩

end Sys2Proof.Machine
end

section
/-! PROOFS. The grammar of well-formed sequences and its checker (R64). -/

namespace Sys2Proof.Machine

/-- What the grammar asks of the commands to come at a place of the checker: inside a frame, the rest of the frame, whose last
byte delivers the promised bit, and then a well-formed sequence. -/
def ContinuesFrom (place : Scan) (cs : List Instr) : Prop :=
  match place with
  | .between => WellFormedProgram cs
  | .inLeft => ∃ (S : List Byte) (r : Byte) (rest : List Instr),
      cs = S.map Instr.data ++ .endFrame r :: rest ∧ WellFormedProgram rest
  | .inRight promised last => ∃ (S : List Byte) (r : Byte) (rest : List Instr),
      cs = S.map Instr.data ++ .endFrame r :: rest ∧ promised = (S.map lsb).getLastD last ∧ WellFormedProgram rest

/-- The last byte of a right frame delivers the promised bit, or there is none (R64). -/
theorem promise_kept_iff (p : Byte) (S : List Byte) :
    lsb p = (S.map lsb).getLastD (lsb p) ↔ ∀ b, S.getLast? = some b → lsb p = lsb b := by
  rcases List.eq_nil_or_concat' S with rfl | ⟨init, last, rfl⟩
  · simp
  · simp

theorem scanProgram_left_frame (S : List Byte) (r : Byte) (rest : List Instr) :
    scanProgram .inLeft (S.map Instr.data ++ .endFrame r :: rest) = scanProgram .between rest := by
  induction S with
  | nil => rfl
  | cons b S ih => exact ih

theorem scanProgram_right_frame (promised last : Bool) (S : List Byte) (r : Byte) (rest : List Instr) :
    scanProgram (.inRight promised last) (S.map Instr.data ++ .endFrame r :: rest) =
      (promised == (S.map lsb).getLastD last && scanProgram .between rest) := by
  induction S generalizing last with
  | nil => rfl
  | cons b S ih =>
    rw [List.map_cons (f := lsb), List.getLastD_cons]
    exact ih (lsb b)

theorem programOk_of_wellFormed {cs : List Instr} (wf : WellFormedProgram cs) : programOk cs = true := by
  induction wf with
  | nil => rfl
  | left rsv rsv' S rest _ ih => exact (scanProgram_left_frame S rsv' rest).trans ih
  | right p rsv' S rest promise _ ih =>
    refine (scanProgram_right_frame (lsb p) (lsb p) S rsv' rest).trans ?_
    rw [← (promise_kept_iff p S).mpr promise, beq_self_eq_true, Bool.true_and]
    exact ih

/-- The checker accepts, from any place, only what the grammar asks for there. -/
theorem continuesFrom_of_scanProgram {place : Scan} {cs : List Instr} (ok : scanProgram place cs = true) :
    ContinuesFrom place cs := by
  induction cs generalizing place with
  | nil =>
    cases place with
    | between => exact .nil
    | inLeft | inRight => cases ok
  | cons i cs ih =>
    cases place with
    | between =>
      cases i with
      | data | endFrame => cases ok
      | startl r =>
        obtain ⟨S, r', rest, rfl, wf⟩ := ih (place := .inLeft) ok
        exact .left r r' S rest wf
      | startr p =>
        obtain ⟨S, r, rest, rfl, promise, wf⟩ := ih (place := .inRight (lsb p) (lsb p)) ok
        exact .right p r S rest ((promise_kept_iff p S).mp promise) wf
    | inLeft =>
      cases i with
      | startl | startr => cases ok
      | data b =>
        obtain ⟨S, r, rest, rfl, wf⟩ := ih (place := .inLeft) ok
        exact ⟨b :: S, r, rest, rfl, wf⟩
      | endFrame r => exact ⟨[], r, cs, rfl, ih (place := .between) ok⟩
    | inRight promised last =>
      cases i with
      | startl | startr => cases ok
      | data b =>
        obtain ⟨S, r, rest, rfl, promise, wf⟩ := ih (place := .inRight promised (lsb b)) ok
        exact ⟨b :: S, r, rest, rfl, by rwa [List.map_cons, List.getLastD_cons], wf⟩
      | endFrame r =>
        rw [scanProgram, Bool.and_eq_true, beq_iff_eq] at ok
        obtain ⟨promise, closed⟩ := ok
        exact ⟨[], r, cs, rfl, promise, ih (place := .between) closed⟩

/-- Settles O45: by induction over the grammar one way, over the sequence from every place of the checker the other. -/
theorem checkerDecidesTheGrammar : Obligations.CheckerDecidesTheGrammar :=
  fun _ => ⟨fun ok => continuesFrom_of_scanProgram (place := .between) ok, programOk_of_wellFormed⟩

end Sys2Proof.Machine
end

section
/-! PROOFS. Well-formed sequences and clean runs (R64): the block follows the checker until one of them objects. -/

namespace Sys2Proof.Machine

open Sys2Proof.Safety

/-- The state of the block at a place of the checker. -/
def AtPlace (place : Scan) (s : State) : Prop :=
  match place with
  | .between => s.busy = false
  | .inLeft => s.busy = true ∧ s.dir = .left
  | .inRight promised last => s.busy = true ∧ s.dir = .right ∧ s.wrap = promised ∧ s.carry = last

theorem noFault_of_flagsKept {s t : State} (kept : FlagsKept s t) (clean : NoFault t) : NoFault s := by
  obtain ⟨keptSeq, keptWrap⟩ := kept
  obtain ⟨noSeq, noWrap⟩ := clean
  exact ⟨Bool.eq_false_of_not_eq_true fun h => Bool.false_ne_true (noSeq.symm.trans (keptSeq h)),
    Bool.eq_false_of_not_eq_true fun h => Bool.false_ne_true (noWrap.symm.trans (keptWrap h))⟩

theorem fault_of_wrong {s : State} {i : Instr} (wrong : s.phase.wrongFor i = true) : ¬ NoFault (s.afterCommand i) := by
  rw [afterCommand_of_wrong wrong]
  exact fun ⟨noSeq, _⟩ => Bool.false_ne_true noSeq.symm

/-- On each command either the checker goes to a place the block is then at, with no fault recorded, or the checker refuses
all that begins so and the block records a fault. -/
theorem checker_step {place : Scan} {s : State} (atPlace : AtPlace place s) (clean : NoFault s) (i : Instr) :
    (∃ place', (∀ cs, scanProgram place (i :: cs) = scanProgram place' cs) ∧
      AtPlace place' (s.afterCommand i) ∧ NoFault (s.afterCommand i)) ∨
    ((∀ cs, scanProgram place (i :: cs) = false) ∧ ¬ NoFault (s.afterCommand i)) := by
  obtain ⟨noSeq, noWrap⟩ := clean
  cases place with
  | between =>
    have idle : s.busy = false := atPlace
    cases i with
    | data b => exact .inr ⟨fun _ => rfl, fault_of_wrong (by simp [idle])⟩
    | startl r => exact .inl ⟨.inLeft, fun _ => rfl, by simp [AtPlace, NoFault, idle, noSeq, noWrap]⟩
    | startr p =>
      exact .inl ⟨.inRight (lsb p) (lsb p), fun _ => rfl, by simp [AtPlace, NoFault, idle, noSeq, noWrap, wrapBitOf]⟩
    | endFrame r => exact .inr ⟨fun _ => rfl, fault_of_wrong (by simp [idle])⟩
  | inLeft =>
    obtain ⟨busy, dir⟩ := atPlace
    cases i with
    | data b => exact .inl ⟨.inLeft, fun _ => rfl, by simp [AtPlace, NoFault, busy, dir, noSeq, noWrap]⟩
    | startl r => exact .inr ⟨fun _ => rfl, fault_of_wrong (by simp [busy])⟩
    | startr p => exact .inr ⟨fun _ => rfl, fault_of_wrong (by simp [busy])⟩
    | endFrame r => exact .inl ⟨.between, fun _ => rfl, by simp [AtPlace, NoFault, busy, dir, noSeq, noWrap]⟩
  | inRight promised last =>
    obtain ⟨busy, dir, wrap, carry⟩ := atPlace
    cases i with
    | data b =>
      exact .inl ⟨.inRight promised (lsb b), fun _ => rfl,
        by simp [AtPlace, NoFault, State.dataRight_eq, busy, dir, wrap, noSeq, noWrap]⟩
    | startl r => exact .inr ⟨fun _ => rfl, fault_of_wrong (by simp [busy])⟩
    | startr p => exact .inr ⟨fun _ => rfl, fault_of_wrong (by simp [busy])⟩
    | endFrame r =>
      by_cases kept : last = promised
      · exact .inl ⟨.between, fun _ => by simp [scanProgram, kept],
          by simp [AtPlace, NoFault, busy, dir, wrap, carry, kept, noSeq, noWrap]⟩
      · exact .inr ⟨fun _ => by simp [scanProgram, Ne.symm kept],
          by simp [NoFault, busy, dir, wrap, carry, kept]⟩

theorem quiescent_iff_between {place : Scan} {s : State} (atPlace : AtPlace place s) :
    Quiescent s ↔ scanProgram place [] = true := by
  cases place with
  | between => exact iff_of_true atPlace rfl
  | inLeft | inRight =>
    obtain ⟨busy, -⟩ := atPlace
    exact iff_of_false (ne_false_of_eq_true busy) Bool.false_ne_true

/-- From a place of the checker, with no fault recorded, the checker accepts what the block ends cleanly and idle. -/
theorem scanProgram_iff_clean {place : Scan} {s : State} (atPlace : AtPlace place s) (clean : NoFault s) (cs : List Instr) :
    scanProgram place cs = true ↔ NoFault (s.afterCommands cs) ∧ Quiescent (s.afterCommands cs) := by
  induction cs generalizing place s with
  | nil => exact (quiescent_iff_between atPlace).symm.trans (and_iff_right clean).symm
  | cons i cs ih =>
    rcases checker_step atPlace clean i with ⟨place', next, atPlace', clean'⟩ | ⟨refused, fault⟩
    · rw [next]
      exact ih atPlace' clean'
    · refine iff_of_false (by simp [refused]) fun ⟨clean', _⟩ => fault ?_
      exact noFault_of_flagsKept (afterCommands_keeps_flags _ cs) clean'

/-- Settles O46: the checker decides the grammar, and the block ends clean and idle exactly on what the checker accepts. -/
theorem wellFormedExactlyWhenCleanAndIdle : Obligations.WellFormedExactlyWhenCleanAndIdle := by
  intro cs s idle clean
  have atPlace : AtPlace .between s := idle
  exact ⟨_, runCommands_eq_next cs s, (checkerDecidesTheGrammar cs).symm.trans (scanProgram_iff_clean atPlace clean cs)⟩

end Sys2Proof.Machine
end

section
/-! PROOFS. Text (R60 to R62): the tokens of a line, a byte's token, the disassembler's lines, the pseudo-commands. -/

namespace Sys2Proof.Machine

/-! Tokens. A plain character neither ends a token nor is one (entry 11). -/

/-- The character has no meaning of its own to the lexer. -/
def isPlain (c : Char) : Bool := c ∉ [';', ' ', '[', ']', ',']

theorem lex_cons_of_plain {c : Char} (plain : isPlain c = true) (cs : List Char) :
    lex (c :: cs) = (c :: (lex cs).1, (lex cs).2) := by
  simp only [isPlain, List.mem_cons, List.not_mem_nil, or_false, not_or, decide_eq_true_eq] at plain
  obtain ⟨comment, space, opening, closing, comma⟩ := plain
  rw [lex, if_neg comment, if_neg space, if_neg (by simp [opening, closing, comma])]

theorem lex_append_of_plain {w : List Char} (plain : w.all isPlain = true) (cs : List Char) :
    lex (w ++ cs) = (w ++ (lex cs).1, (lex cs).2) := by
  induction w with
  | nil => rfl
  | cons c w ih =>
    rw [List.all_cons, Bool.and_eq_true] at plain
    obtain ⟨first, rest⟩ := plain
    rw [List.cons_append, lex_cons_of_plain first, ih rest, List.cons_append]

/-- A word before something that ends a token is a token. -/
theorem tokens_append {w cs : List Char} (plain : w.all isPlain = true) (nonempty : w ≠ []) (ends : (lex cs).1 = []) :
    tokens (w ++ cs) = w :: tokens cs := by
  rw [tokens, lex_append_of_plain plain, ends, List.append_nil, pushToken, if_neg nonempty, tokens, ends, pushToken,
    if_pos rfl]

theorem tokens_nil : tokens [] = [] := rfl

theorem tokens_space (cs : List Char) : tokens (' ' :: cs) = tokens cs := rfl

theorem isPlain_hexDigit (n : Nat) : isPlain (hexDigit n) = true := by
  unfold hexDigit
  split <;> decide

theorem tokens_byteText_append {cs : List Char} (b : Byte) (ends : (lex cs).1 = []) :
    tokens (byteText b ++ cs) = byteText b :: tokens cs := by
  refine tokens_append ?_ (List.cons_ne_nil _ _) ends
  have marker : isPlain '0' = true ∧ isPlain 'x' = true := by decide
  simp [byteText, marker, isPlain_hexDigit]

theorem tokens_byteText (b : Byte) : tokens (byteText b) = [byteText b] := by
  simpa [tokens_nil] using tokens_byteText_append (cs := []) b rfl

/-! The disassembler's lines (R60). -/

theorem tokens_operand_line {k : List Char} (plain : k.all isPlain = true) (nonempty : k ≠ []) (b : Byte) :
    tokens (k ++ ' ' :: byteText b) = [k, byteText b] := by
  rw [tokens_append plain nonempty rfl, tokens_space, tokens_byteText]

/-- Reserved bits are printed as a comment, of which nothing is read. -/
theorem tokens_reserved_line {k : List Char} (plain : k.all isPlain = true) (nonempty : k ≠ []) (rsv : Byte) :
    tokens (k ++ rsvComment rsv) = [k] := by
  unfold rsvComment
  split_ifs
  · rw [tokens_append plain nonempty rfl, tokens_nil]
  · rw [tokens_append plain nonempty rfl]
    rfl

theorem parseTokens_data (b : Byte) : parseTokens [kwData, byteText b] = some [.data b] := by
  simp [parseTokens, oneByte, byteOfText_byteText]

theorem parseTokens_startr (p : Byte) : parseTokens [kwStartr, byteText p] = some [.startr p] := by
  simp [parseTokens, oneByte, byteOfText_byteText, show kwStartr ≠ kwData by decide]

/-- Settles O58: a line of the disassembler has the mnemonic and the operand as its tokens. -/
theorem assemblerReadsTheDisassembly : Obligations.AssemblerReadsTheDisassembly := by
  intro i
  rw [assembleLine]
  cases i with
  | data b => exact (congrArg parseTokens (tokens_operand_line (by decide) (by decide) b)).trans (parseTokens_data b)
  | startl r => exact congrArg parseTokens (tokens_reserved_line (k := kwStartl) (by decide) (by decide) r)
  | startr p => exact (congrArg parseTokens (tokens_operand_line (by decide) (by decide) p)).trans (parseTokens_startr p)
  | endFrame r => exact congrArg parseTokens (tokens_reserved_line (k := kwEnd) (by decide) (by decide) r)

/-! The bracketed bytes of a pseudo-command (R61). -/

theorem tokens_bytesText_last (b : Byte) : tokens (bytesText [b]) = [byteText b, [']']] :=
  tokens_byteText_append b rfl

theorem tokens_bytesText_cons (b c : Byte) (S : List Byte) :
    tokens (bytesText (b :: c :: S)) = byteText b :: [','] :: tokens (bytesText (c :: S)) := by
  rw [bytesText, List.append_assoc, tokens_byteText_append b rfl]
  rfl

theorem bytesToBracket_last {x : List Char} {b : Byte} (byte : byteOfText x = some b) :
    bytesToBracket [x, [']']] = some [b] := by
  simp [bytesToBracket, byte]

theorem bytesToBracket_cons {x : List Char} {b : Byte} {ts : List (List Char)} {S : List Byte}
    (byte : byteOfText x = some b) (more : bytesToBracket ts = some S) :
    bytesToBracket (x :: [','] :: ts) = some (b :: S) := by
  cases ts with
  | nil => cases more
  | cons t ts => simp [bytesToBracket, byte, more]

theorem bytesToBracket_bytesText (b : Byte) (S : List Byte) :
    bytesToBracket (tokens (bytesText (b :: S))) = some (b :: S) := by
  induction S generalizing b with
  | nil =>
    rw [tokens_bytesText_last]
    exact bytesToBracket_last (byteOfText_byteText b)
  | cons c S ih =>
    rw [tokens_bytesText_cons]
    exact bytesToBracket_cons (byteOfText_byteText b) (ih c)

theorem bracketedBytes_bytesText (S : List Byte) : bracketedBytes (['['] :: tokens (bytesText S)) = some S := by
  cases S with
  | nil => rfl
  | cons b S =>
    have notEmpty : tokens (bytesText (b :: S)) ≠ [[']']] := by
      intro empty
      have bytes := bytesToBracket_bytesText b S
      rw [empty] at bytes
      cases bytes
    rw [bracketedBytes, if_pos rfl, if_neg notEmpty, bytesToBracket_bytesText]

theorem tokens_bracketed_line {k : List Char} (plain : k.all isPlain = true) (nonempty : k ≠ []) (S : List Byte) :
    tokens (k ++ [' ', '['] ++ bytesText S) = k :: ['['] :: tokens (bytesText S) := by
  rw [List.append_assoc, tokens_append plain nonempty rfl]
  rfl

theorem frameOf_length (d : Direction) (S : List Byte) : (frameOf d S).length = S.length + 2 := by
  cases d <;> simp [frameOf, rotl, rotr, frameBody]

/-- Settles O59: the tokens of the line are the mnemonic and the bracketed bytes, which the assembler reads back. -/
theorem pseudoCommandsExpandToTheirFrames : Obligations.PseudoCommandsExpandToTheirFrames := by
  refine fun d S => ⟨?_, frameOf_length d S⟩
  have bytes := bracketedBytes_bytesText S
  cases d with
  | left =>
    rw [assembleLine, pseudoText, tokens_bracketed_line (by decide) (by decide), parseTokens]
    simp [bytes, frameOf, kwRotl, kwData, kwStartr, kwStartl, kwEnd]
  | right =>
    rw [assembleLine, pseudoText, tokens_bracketed_line (by decide) (by decide), parseTokens]
    simp [bytes, frameOf, kwRotr, kwRotl, kwData, kwStartr, kwStartl, kwEnd]

end Sys2Proof.Machine
end
